-- ==== Sys2Proof/Word.lean ====
section
/-! DEFINITION. The word types of the engine (spec rules R7, R8): bytes, 32-bit words and bit strings.
Bit strings list their bits in source order, the first bit read at the head (R7). -/

namespace Sys2Proof

/-- `u8` (R8). -/
abbrev Byte := BitVec 8

/-- `u32` (R8): the bit window, the host registers, distances. -/
abbrev Word := BitVec 32

/-- A bit string, first bit read first (R7). -/
abbrev Bits := List Bool

end Sys2Proof
end

