-- ==== Sys2Proof/Machine/Bits.lean ====
section
/-! DEFINITION. Bit strings and bit arithmetic (spec rules R7, R8, R64, R65): reading and writing fields of a bit
string, the leading-zero count, the rotation and the zigzag map. -/

namespace Sys2Proof

/-- The low `n` bits of `v`, most significant first (R7). -/
def bitsOfNat : Nat → Nat → Bits
  | 0, _ => []
  | n + 1, v => v.testBit n :: bitsOfNat n v

/-- A bit vector as a bit string, bit `w - 1` first (R7). -/
def bitsOf {w : Nat} (v : BitVec w) : Bits :=
  bitsOfNat w v.toNat

/-- Bytes in source order as one bit string: each byte most significant bit first.  A big-endian word (R64) is
therefore the number its bit string writes. -/
def bitsOfBytes : List Byte → Bits
  | [] => []
  | b :: bs => bitsOf b ++ bitsOfBytes bs

/-- Read `n` bits onto the number `acc`; bits past the end of the string are 0 (R61). -/
def takeNat : Nat → Nat → Bits → Nat × Bits
  | 0, acc, bs => (acc, bs)
  | n + 1, acc, [] => takeNat n (2 * acc) []
  | n + 1, acc, b :: bs => takeNat n (2 * acc + b.toNat) bs

/-- Read an `n`-bit field and the rest of the string. -/
def takeField (n : Nat) (bs : Bits) : BitVec n × Bits :=
  let r := takeNat n 0 bs
  (BitVec.ofNat n r.1, r.2)

/-- Read one bit and the rest of the string. -/
def takeBit : Bits → Bool × Bits
  | [] => (false, [])
  | b :: bs => (b, bs)

/-- Count zero bits up to the first one bit and drop them with that one bit; at most `fuel` zeros are counted, and then
no one bit is dropped (with `fuel = 32` the count is that of `clz32`, R8). -/
def takeZeros : Nat → Bits → Nat × Bits
  | 0, bs => (0, bs)
  | k + 1, [] => let r := takeZeros k []; (r.1 + 1, r.2)
  | _ + 1, true :: bs => (0, bs)
  | k + 1, false :: bs => let r := takeZeros k bs; (r.1 + 1, r.2)

/-- The bits of a code `0^n 1 b^w` (R100, R103, R104); 32 zeros or more carry no one bit and no field. -/
def zerosOneBits (n w b : Nat) : Bits :=
  if n < 32 then List.replicate n false ++ true :: bitsOfNat w b else List.replicate 32 false

/-- `clz32` (R8): the leading zero bits of a `u32`, 32 for 0. -/
def clz32 (v : Word) : Nat :=
  if v = 0 then 32 else 31 - v.toNat.log2

/-- `rotl32` (R8). -/
def rotl32 (v : Word) (n : Nat) : Word :=
  (v <<< n) ||| (v >>> (32 - n))

/-- `zz` (R8): 0, 1, 2, 3, 4 to 0, -1, 1, -2, 2. -/
def zz (v : Nat) : Int :=
  if v % 2 = 0 then (v / 2 : Nat) else -((v / 2 : Nat) : Int) - 1

end Sys2Proof
end

