-- ==== Sys2Proof/Syntax.lean ====
section
/-! DEFINITION. The engine's instructions (spec rule R2): one constructor per row of
spec/opcode_table.json, in the table's order, carrying the row's fields.  Ignored bits are carried too, so
that no bit of an encoding is dropped.  `Ctx` names the element kinds a decoder can be asked for (R80, R108): the
engine has no instruction stream, so which element a bit string is read as is said by the sequencer. -/

namespace Sys2Proof

/-- The two cursor registers of rule R21: `a` reads forward, `b` backward in the LZ unpacker (R273); an entropy
payload is read through `a` (R191). -/
inductive CSel
  | a
  | b
  deriving DecidableEq, Repr, Inhabited

/-- One constructor per row of the opcode table. -/
inductive Instr
  -- host commands: a word written to CTRL (R32)
  | ctrlStart (x : BitVec 29) (f : Bool)
  | ctrlSoftReset (x : BitVec 30) (x0 : Bool)
  | ctrlForgetStream (x : BitVec 29)
  -- stream header (R81, R161): R = restart, U = uncompressed, C = use_checksums
  | streamHeaderLzna (r u c : Bool)
  | streamHeaderKraken (r u c : Bool)
  | streamHeaderMermaid (r u c : Bool)
  | streamHeaderBitknit (r u c : Bool)
  | streamHeaderLeviathan (r u c : Bool)
  | streamHeaderBadMagic (x m : BitVec 4) (y : Byte)
  | streamHeaderBadReserved (x r : BitVec 2) (y : Byte)
  | streamHeaderBadFamily (r u c : Bool) (f : BitVec 7)
  | streamHeaderTruncated
  -- Kraken-family block header (R83, R84)
  | krakenBhNormal (x : BitVec 4) (flag2 flag1 : Bool) (s : BitVec 18)
  | krakenBhNormalCk (x : BitVec 4) (flag2 flag1 : Bool) (s : BitVec 18) (c : BitVec 24)
  | krakenBhFill (k : Byte)
  | krakenBhBadSentinel (e : BitVec 6)
  | krakenBhTruncated
  -- LZNA-family block header (R85, R86)
  | lznaBhNormal (flag2 flag1 : Bool) (s : BitVec 14)
  | lznaBhNormalCk (flag2 flag1 : Bool) (s : BitVec 14) (c : BitVec 24)
  | lznaBhWholeMatch
  | lznaBhMemset (k : Byte)
  | lznaBhRaw
  | lznaBhBad
  -- Kraken quantum sub-chunk header (R87)
  | quantumLz (m : BitVec 4) (u : BitVec 19)
  | quantumStored (u : BitVec 19)
  | quantumEntropy (x : BitVec 23)
  -- chunk header (R88 to R90): s = size or src_size, d = dst_size - src_size - 1 (short) or dst_size - 1 (long)
  | chunkCopyShort (s : BitVec 12)
  | chunkCopyLong (s : BitVec 18)
  | chunkCopyLongBad (r : BitVec 2) (s : BitVec 18)
  | chunkTansShort (d s : BitVec 10)
  | chunkTansLong (d s : BitVec 18)
  | chunkHuff2Short (d s : BitVec 10)
  | chunkHuff2Long (d s : BitVec 18)
  | chunkRleShort (d s : BitVec 10)
  | chunkRleLong (d s : BitVec 18)
  | chunkHuff4Short (d s : BitVec 10)
  | chunkHuff4Long (d s : BitVec 18)
  | chunkRecursiveShort (d s : BitVec 10)
  | chunkRecursiveLong (d s : BitVec 18)
  | chunkType6 (l : Bool) (x : BitVec 4)
  | chunkType7 (l : Bool) (x : BitVec 4)
  -- entropy selector (R91)
  | entropySelGamma
  | entropySelSparse
  | entropySelGolombRice
  | entropySelBad
  -- sparse code lengths (R92)
  | sparseZero
  | sparseOne (s : Byte)
  | sparseMany (c : Byte) (w : BitVec 3) (pairs : List (Byte × BitVec 4))
  -- gamma code lengths (R93): n, q count leading zeros; b is the field after the first one bit
  | gammaHeader (f : BitVec 2) (k : Bool)
  | gammaZeroRun (n b : Nat)
  | gammaRunCount (n b : Nat)
  | gammaResidual (f : BitVec 2) (q b : Nat)
  -- variable-length integer codes (R100 to R105), each read at the cursor named
  | gammaCode (c : CSel) (n b : Nat)
  | distanceSmall (c : CSel) (cb : Byte) (x : Nat)
  | distanceLarge (c : CSel) (cb : Byte) (x : Nat) (y : BitVec 12)
  | lengthCode (c : CSel) (n b : Nat)
  | sideCountCode (n b : Nat)
  | moreThan24 (c : CSel) (n b : Nat)
  -- LZ table bytes (R95 to R99)
  | lzFlagOk (x : BitVec 7)
  | lzFlagBad (x : BitVec 7)
  | lzScalingPresent (s : BitVec 7)
  | lzScalingAbsent (x : BitVec 7)
  | lzOffsetTradSmall (h l : BitVec 4)
  | lzOffsetTradLarge (n : BitVec 4)
  | lzOffsetScaled (k : BitVec 5) (l : BitVec 3)
  | lzOffsetEarlyStop (k : BitVec 5) (l : BitVec 3)
  | lzLengthByte (v : Byte)
  | lzLengthEscape
  -- bit-cursor operations (R121 to R135), which have no encoding of their own
  | cursorInitFwd (c : CSel) (lo hi : Nat)
  | cursorInitBwd (c : CSel) (lo hi : Nat)
  | refill (c : CSel)
  | refillBackwards (c : CSel)
  | readBits (c : CSel) (n : Nat)
  | readBitsZero (c : CSel) (n : Nat)
  | readBit (c : CSel)
  | readBitNorefill (c : CSel)
  | readGamma (c : CSel)
  | readDistance (c : CSel) (cb : Byte)
  | readDistanceB (c : CSel) (cb : Byte)
  | readLength (c : CSel)
  | readLengthB (c : CSel)
  | readMoreThan24Bits (c : CSel) (n : Nat)
  | readMoreThan24BitsB (c : CSel) (n : Nat)
  | consumedPos (c : CSel)
  deriving DecidableEq, Repr

/-- What a bit string is to be read as (R80, R108). -/
inductive Ctx
  | ctrl
  | streamHeader
  | krakenBh (checksums : Bool)
  | lznaBh (checksums : Bool)
  | quantum (cnt : Nat)
  | chunk
  | selector
  | sparse
  | gammaHeader
  | gammaZero
  | gammaRun
  | residual (f : BitVec 2)
  | gammaCode (c : CSel)
  | distance (c : CSel) (cb : Byte)
  | lengthCode (c : CSel)
  | sideCount
  | moreThan24 (c : CSel) (n : Nat)
  | lzFlag
  | lzScaling
  | lzOffset (scaled : Bool)
  | lzLength
  deriving DecidableEq, Repr

end Sys2Proof
end

