-- ==== Sys2Proof/Machine/Operands.lean ====
section
/-! DEFINITION. The operand forms of the elements (spec rules R96 to R105): the widths of the variable-length fields,
the values the fields write, and the cursor an index uses. -/

namespace Sys2Proof

/-- R97, R101, R102, R129: the bits `read_distance` reads first, by the control byte. -/
def distanceBits (cb : Byte) : Nat :=
  if cb.toNat < 0xF0 then cb.toNat / 16 + 4 else cb.toNat - 0xF0 + 4

/-- R129: `m = (2 << n) - 1`. -/
def defaultDistanceMask (n : Nat) : Word :=
  BitVec.ofNat 32 (2 ^ (n + 1) - 1)

/-- R97: the control byte of a packed offset `hhhhllll`. -/
def offsetControl (h l : BitVec 4) : Byte :=
  h ++ l

/-- R96: `scaling = byte - 127` for the byte `1sssssss`. -/
def scalingOf (s : BitVec 7) : Nat :=
  s.toNat + 1

/-- R275, R284: even indices use cursor A, odd ones cursor B. -/
def selOf (i : Nat) : CSel :=
  if i % 2 = 0 then .a else .b

/-- R236: `dst_size` of the short chunk layout. -/
def defaultShortDstSize (d s : BitVec 10) : Nat :=
  s.toNat + d.toNat + 1

/-- R237: `dst_size` of the long chunk layout. -/
def defaultLongDstSize (d : BitVec 18) : Nat :=
  d.toNat + 1

/-- R276: a scaled offset before correction, from the command's fields and the `k` bits read. -/
def defaultScaledOffset (k : Nat) (l : BitVec 3) (bits : Nat) : Int :=
  8 - (((8 + l.toNat) <<< k ||| bits : Nat) : Int)

end Sys2Proof
end

