-- ==== Sys2Proof/WellFormed.lean ====
section
/-! DEFINITION. Well-formed instructions: the values the encodings of spec file 30_encoding.md admit for the fields of
each row, and which context (`Ctx`) reads which row. -/

namespace Sys2Proof

/-- A code `0^n 1 b` with a `w`-bit field; 32 zeros carry no field (`clz32` counts no further, R8). -/
def wfCode (n w b : Nat) : Bool :=
  (decide (n < 32) && decide (b < 2 ^ w)) || (decide (n = 32) && decide (b = 0))

/-- R82: the family codes. -/
def familyCodes : List Nat := [5, 6, 10, 11, 12]

/-- The field values each row of the opcode table admits. -/
def Instr.wf : Instr → Bool
  | .ctrlStart _ _ => true
  | .ctrlSoftReset _ _ => true
  | .ctrlForgetStream _ => true
  | .streamHeaderLzna _ _ _ => true
  | .streamHeaderKraken _ _ _ => true
  | .streamHeaderMermaid _ _ _ => true
  | .streamHeaderBitknit _ _ _ => true
  | .streamHeaderLeviathan _ _ _ => true
  | .streamHeaderBadMagic _ m _ => m != 0xC#4
  | .streamHeaderBadReserved _ r _ => r != 0#2
  | .streamHeaderBadFamily _ _ _ f => !familyCodes.contains f.toNat
  | .streamHeaderTruncated => true
  | .krakenBhNormal _ _ _ s => s != 0x3FFFF#18
  | .krakenBhNormalCk _ _ _ s _ => s != 0x3FFFF#18
  | .krakenBhFill _ => true
  | .krakenBhBadSentinel e => e != 1#6
  | .krakenBhTruncated => true
  | .lznaBhNormal _ _ s => s != 0x3FFF#14
  | .lznaBhNormalCk _ _ s _ => s != 0x3FFF#14
  | .lznaBhWholeMatch => true
  | .lznaBhMemset _ => true
  | .lznaBhRaw => true
  | .lznaBhBad => true
  | .quantumLz _ _ => true
  | .quantumStored _ => true
  | .quantumEntropy _ => true
  | .chunkCopyShort _ => true
  | .chunkCopyLong _ => true
  | .chunkCopyLongBad r _ => r != 0#2
  | .chunkTansShort _ _ => true
  | .chunkTansLong _ _ => true
  | .chunkHuff2Short _ _ => true
  | .chunkHuff2Long _ _ => true
  | .chunkRleShort _ _ => true
  | .chunkRleLong _ _ => true
  | .chunkHuff4Short _ _ => true
  | .chunkHuff4Long _ _ => true
  | .chunkRecursiveShort _ _ => true
  | .chunkRecursiveLong _ _ => true
  | .chunkType6 _ _ => true
  | .chunkType7 _ _ => true
  | .entropySelGamma => true
  | .entropySelSparse => true
  | .entropySelGolombRice => true
  | .entropySelBad => true
  | .sparseZero => true
  | .sparseOne _ => true
  | .sparseMany c w pairs =>
    decide (2 ≤ c.toNat) &&
      (if w.toNat ≤ 4 then pairs.length == c.toNat && pairs.all (fun x => decide (x.2.toNat < 2 ^ w.toNat))
       else pairs.isEmpty)
  | .gammaHeader _ _ => true
  | .gammaZeroRun n b => wfCode n (n + 1) b
  | .gammaRunCount n b => wfCode n (n + 1) b
  | .gammaResidual f q b => wfCode q f.toNat b
  | .gammaCode _ n b => wfCode n (n + 1) b
  | .distanceSmall _ cb x => decide (cb.toNat < 0xF0) && decide (x < 2 ^ distanceBits cb)
  | .distanceLarge _ cb x _ => decide (0xF0 ≤ cb.toNat) && decide (x < 2 ^ distanceBits cb)
  | .lengthCode _ n b => wfCode n (n + 6) b
  | .sideCountCode n b => wfCode n n b
  | .moreThan24 _ n b => decide (n ≤ 26) && decide (b < 2 ^ n)
  | .lzFlagOk _ => true
  | .lzFlagBad _ => true
  | .lzScalingPresent _ => true
  | .lzScalingAbsent _ => true
  | .lzOffsetTradSmall h _ => h != 0xF#4
  | .lzOffsetTradLarge _ => true
  | .lzOffsetScaled k _ => decide (k.toNat ≤ 26)
  | .lzOffsetEarlyStop k _ => decide (27 ≤ k.toNat)
  | .lzLengthByte v => v != 0xFF#8
  | .lzLengthEscape => true
  | .cursorInitFwd _ lo hi => decide (lo ≤ hi)
  | .cursorInitBwd _ lo hi => decide (lo ≤ hi)
  | .refill _ => true
  | .refillBackwards _ => true
  | .readBits _ n => decide (1 ≤ n) && decide (n ≤ 24)
  | .readBitsZero _ n => decide (n ≤ 24)
  | .readBit _ => true
  | .readBitNorefill _ => true
  | .readGamma _ => true
  | .readDistance _ _ => true
  | .readDistanceB _ _ => true
  | .readLength _ => true
  | .readLengthB _ => true
  | .readMoreThan24Bits _ n => decide (n ≤ 26)
  | .readMoreThan24BitsB _ n => decide (n ≤ 26)
  | .consumedPos _ => true

/-- The rows a context reads (R80).  A sub-chunk header with `mode = 0` and `used >= cnt` is the stored row, any other
with bit 23 set the LZ row (R87, R321). -/
def Ctx.reads : Ctx → Instr → Bool
  | .ctrl, .ctrlStart _ _ => true
  | .ctrl, .ctrlSoftReset _ _ => true
  | .ctrl, .ctrlForgetStream _ => true
  | .streamHeader, .streamHeaderLzna _ _ _ => true
  | .streamHeader, .streamHeaderKraken _ _ _ => true
  | .streamHeader, .streamHeaderMermaid _ _ _ => true
  | .streamHeader, .streamHeaderBitknit _ _ _ => true
  | .streamHeader, .streamHeaderLeviathan _ _ _ => true
  | .streamHeader, .streamHeaderBadMagic _ _ _ => true
  | .streamHeader, .streamHeaderBadReserved _ _ _ => true
  | .streamHeader, .streamHeaderBadFamily _ _ _ _ => true
  | .streamHeader, .streamHeaderTruncated => true
  | .krakenBh ck, .krakenBhNormal _ _ _ _ => !ck
  | .krakenBh ck, .krakenBhNormalCk _ _ _ _ _ => ck
  | .krakenBh _, .krakenBhFill _ => true
  | .krakenBh _, .krakenBhBadSentinel _ => true
  | .krakenBh _, .krakenBhTruncated => true
  | .lznaBh ck, .lznaBhNormal _ _ _ => !ck
  | .lznaBh ck, .lznaBhNormalCk _ _ _ _ => ck
  | .lznaBh _, .lznaBhWholeMatch => true
  | .lznaBh _, .lznaBhMemset _ => true
  | .lznaBh _, .lznaBhRaw => true
  | .lznaBh _, .lznaBhBad => true
  | .quantum cnt, .quantumLz m u => !(m == 0#4 && decide (cnt ≤ u.toNat))
  | .quantum cnt, .quantumStored u => decide (cnt ≤ u.toNat)
  | .quantum _, .quantumEntropy _ => true
  | .chunk, .chunkCopyShort _ => true
  | .chunk, .chunkCopyLong _ => true
  | .chunk, .chunkCopyLongBad _ _ => true
  | .chunk, .chunkTansShort _ _ => true
  | .chunk, .chunkTansLong _ _ => true
  | .chunk, .chunkHuff2Short _ _ => true
  | .chunk, .chunkHuff2Long _ _ => true
  | .chunk, .chunkRleShort _ _ => true
  | .chunk, .chunkRleLong _ _ => true
  | .chunk, .chunkHuff4Short _ _ => true
  | .chunk, .chunkHuff4Long _ _ => true
  | .chunk, .chunkRecursiveShort _ _ => true
  | .chunk, .chunkRecursiveLong _ _ => true
  | .chunk, .chunkType6 _ _ => true
  | .chunk, .chunkType7 _ _ => true
  | .selector, .entropySelGamma => true
  | .selector, .entropySelSparse => true
  | .selector, .entropySelGolombRice => true
  | .selector, .entropySelBad => true
  | .sparse, .sparseZero => true
  | .sparse, .sparseOne _ => true
  | .sparse, .sparseMany _ _ _ => true
  | .gammaHeader, .gammaHeader _ _ => true
  | .gammaZero, .gammaZeroRun _ _ => true
  | .gammaRun, .gammaRunCount _ _ => true
  | .residual f, .gammaResidual f' _ _ => f == f'
  | .gammaCode c, .gammaCode c' _ _ => c == c'
  | .distance c cb, .distanceSmall c' cb' _ => c == c' && cb == cb'
  | .distance c cb, .distanceLarge c' cb' _ _ => c == c' && cb == cb'
  | .lengthCode c, .lengthCode c' _ _ => c == c'
  | .sideCount, .sideCountCode _ _ => true
  | .moreThan24 c n, .moreThan24 c' n' _ => c == c' && n == n'
  | .lzFlag, .lzFlagOk _ => true
  | .lzFlag, .lzFlagBad _ => true
  | .lzScaling, .lzScalingPresent _ => true
  | .lzScaling, .lzScalingAbsent _ => true
  | .lzOffset scaled, .lzOffsetTradSmall _ _ => !scaled
  | .lzOffset scaled, .lzOffsetTradLarge _ => !scaled
  | .lzOffset scaled, .lzOffsetScaled _ _ => scaled
  | .lzOffset scaled, .lzOffsetEarlyStop _ _ => scaled
  | .lzLength, .lzLengthByte _ => true
  | .lzLength, .lzLengthEscape => true
  | _, _ => false

/-- A well-formed instruction in a context that reads it. -/
def Ctx.admits (ctx : Ctx) (i : Instr) : Bool :=
  ctx.reads i && i.wf

end Sys2Proof
end

