-- ==== Sys2Proof/Decode.lean ====
section
/-! DEFINITION. The decoder and, after it, the encoder (spec file 30_encoding.md).  Every element is read as a bit string
in source order (R7, R65, R80): a big-endian word (R64) is the number its bit string writes, so byte-aligned and
bit-level elements are read alike.  Bits past the end of the string read as 0, as the cursors do (R61); a
byte-aligned element checks the length first.  The layouts and grammars that the spec marks as general knowledge (R10, file 93
Part 2) are fields of `Grammar`, which `decode` and `encode` take as an argument with the stated default, `grammar`. -/

namespace Sys2Proof

/-- Why no element can be read. -/
inductive DecodeError
  /-- R32: the CTRL word has none of the three command bits. -/
  | noCommand
  /-- R173: an LZNA-family block header runs past the source; the table has a row for this of the Kraken-family only. -/
  | truncatedBlockHeader
  /-- R310: fewer than 3 bytes of a sub-chunk header. -/
  | truncatedSubchunk
  /-- R231: fewer than 2 bytes of a chunk. -/
  | truncatedChunk
  /-- R234, R236, R237: a chunk header runs past its range. -/
  | truncatedChunkHeader
  /-- There is no byte to read an LZ table byte from. -/
  | noByte
  deriving DecidableEq, Repr

/-- R10, file 93 Part 2: the layouts and grammars "from general knowledge", each a decoder of one element kind, with the encoder that
belongs to them.  `grammar` holds the stated defaults; a model that does not trust one gives `decode` and `encode` another record. -/
structure Grammar where
  /-- R64: the bits of a header's words, each word most significant bit first, from the bits in source order. -/
  wordOrder : Ctx → Bits → Bits
  /-- The most source bytes a header or a chunk header takes (R83 to R85, R87, R90). -/
  headerBytes : Ctx → Nat
  /-- R83, R84, R167: the Kraken-family block header, with or without checksums; the fill byte stands after the 24-bit word. -/
  krakenBh : Bool → Bits → Except DecodeError Instr
  /-- R85, R86, R172: the LZNA-family block header and its sentinel codes. -/
  lznaBh : Bool → Bits → Except DecodeError Instr
  /-- R87, R310: the quantum sub-chunk header, for the sub-chunk's output size. -/
  quantum : Nat → Bits → Except DecodeError Instr
  /-- R89, R90, R231, R237: the chunk header, and the 2 bytes it has at least. -/
  chunk : Bits → Except DecodeError Instr
  /-- R91: the entropy selector patterns. -/
  selector : Bits → Instr
  /-- R92: the sparse code lengths. -/
  sparse : Bits → Instr
  /-- R93, R194: the gamma path's header. -/
  gammaHeader : Bits → Instr
  /-- R93, R195: a zero run. -/
  gammaZero : Bits → Instr
  /-- R93, R196: a run count. -/
  gammaRun : Bits → Instr
  /-- R93, R197: a residual, by the forced bits. -/
  residual : BitVec 2 → Bits → Instr
  /-- R100: the gamma code. -/
  gammaCode : CSel → Bits → Instr
  /-- R101, R102: the distance code, by its control byte. -/
  distance : CSel → Byte → Bits → Instr
  /-- R103: the length code. -/
  lengthCode : CSel → Bits → Instr
  /-- R104: the side-count code. -/
  sideCount : Bits → Instr
  /-- The bits of an instruction. -/
  encode : Instr → Option Bits

/-- R32: `SOFT_RESET` alone if bit 1 is set, else `START`, with `FORGET_STREAM` before it if bit 2 is set, else
`FORGET_STREAM`. -/
def decodeCtrl (bs : Bits) : Except DecodeError Instr :=
  let (x, bs) := takeField 29 bs
  let (f, bs) := takeBit bs
  let (reset, bs) := takeBit bs
  let (start, _) := takeBit bs
  if reset then .ok (.ctrlSoftReset (x ++ BitVec.ofBool f) start)
  else if start then .ok (.ctrlStart x f)
  else if f then .ok (.ctrlForgetStream x)
  else .error .noCommand

/-- R81, R82, R161, R163: length, magic, reserved bits and family, in that order. -/
def decodeStreamHeader (bs : Bits) : Except DecodeError Instr :=
  if bs.length < 16 then .ok .streamHeaderTruncated
  else
    let (r, bs) := takeBit bs
    let (u, bs) := takeBit bs
    let (reserved, bs) := takeField 2 bs
    let (magic, bs) := takeField 4 bs
    let (c, bs) := takeBit bs
    let (fam, _) := takeField 7 bs
    if magic ≠ 0xC#4 then
      .ok (.streamHeaderBadMagic (BitVec.ofBool r ++ BitVec.ofBool u ++ reserved) magic (BitVec.ofBool c ++ fam))
    else if reserved ≠ 0#2 then
      .ok (.streamHeaderBadReserved (BitVec.ofBool r ++ BitVec.ofBool u) reserved (BitVec.ofBool c ++ fam))
    else if fam = 5#7 then .ok (.streamHeaderLzna r u c)
    else if fam = 6#7 then .ok (.streamHeaderKraken r u c)
    else if fam = 10#7 then .ok (.streamHeaderMermaid r u c)
    else if fam = 11#7 then .ok (.streamHeaderBitknit r u c)
    else if fam = 12#7 then .ok (.streamHeaderLeviathan r u c)
    else .ok (.streamHeaderBadFamily r u c fam)

/-- R83, R84, R165 to R168, R173. -/
def decodeKrakenBh (checksums : Bool) (bs : Bits) : Except DecodeError Instr :=
  let total := bs.length
  if total < 24 then .ok .krakenBhTruncated
  else
    let (x, bs) := takeField 4 bs
    let (flag2, bs) := takeBit bs
    let (flag1, bs) := takeBit bs
    let (s, bs) := takeField 18 bs
    if s ≠ 0x3FFFF#18 then
      if checksums then
        if total < 48 then .ok .krakenBhTruncated
        else .ok (.krakenBhNormalCk x flag2 flag1 s (takeField 24 bs).1)
      else .ok (.krakenBhNormal x flag2 flag1 s)
    else
      let e := x ++ BitVec.ofBool flag2 ++ BitVec.ofBool flag1
      if e = 1#6 then
        if total < 32 then .ok .krakenBhTruncated else .ok (.krakenBhFill (takeField 8 bs).1)
      else .ok (.krakenBhBadSentinel e)

/-- R85, R86, R169 to R173. -/
def decodeLznaBh (checksums : Bool) (bs : Bits) : Except DecodeError Instr :=
  let total := bs.length
  if total < 16 then .error .truncatedBlockHeader
  else
    let (flag2, bs) := takeBit bs
    let (flag1, bs) := takeBit bs
    let (s, bs) := takeField 14 bs
    if s ≠ 0x3FFF#14 then
      if checksums then
        if total < 40 then .error .truncatedBlockHeader
        else .ok (.lznaBhNormalCk flag2 flag1 s (takeField 24 bs).1)
      else .ok (.lznaBhNormal flag2 flag1 s)
    else
      match flag2, flag1 with
      | false, false => .ok .lznaBhWholeMatch
      | false, true => if total < 24 then .error .truncatedBlockHeader else .ok (.lznaBhMemset (takeField 8 bs).1)
      | true, false => .ok .lznaBhRaw
      | true, true => .ok .lznaBhBad

/-- R87, R310, R321; `cnt` is the sub-chunk's output size. -/
def decodeQuantum (cnt : Nat) (bs : Bits) : Except DecodeError Instr :=
  if bs.length < 24 then .error .truncatedSubchunk
  else
    let (lz, bs) := takeBit bs
    if lz then
      let (m, bs) := takeField 4 bs
      let (u, _) := takeField 19 bs
      if m = 0#4 ∧ cnt ≤ u.toNat then .ok (.quantumStored u) else .ok (.quantumLz m u)
    else .ok (.quantumEntropy (takeField 23 bs).1)

/-- R90, R236, R237: the size descriptor of a compressed chunk, read after its first 4 bits. -/
def decodeCompressed (short : Bool) (total : Nat) (bs : Bits) (mkShort : BitVec 10 → BitVec 10 → Instr)
    (mkLong : BitVec 18 → BitVec 18 → Instr) : Except DecodeError Instr :=
  if short then
    if total < 24 then .error .truncatedChunkHeader
    else
      let (d, bs) := takeField 10 bs
      .ok (mkShort d (takeField 10 bs).1)
  else
    if total < 40 then .error .truncatedChunkHeader
    else
      let (d, bs) := takeField 18 bs
      .ok (mkLong d (takeField 18 bs).1)

/-- R88 to R90, R230 to R237, R240. -/
def decodeChunk (bs : Bits) : Except DecodeError Instr :=
  let total := bs.length
  if total < 16 then .error .truncatedChunk
  else
    let (short, bs) := takeBit bs
    let (type, bs) := takeField 3 bs
    if type = 0#3 then
      if short then .ok (.chunkCopyShort (takeField 12 bs).1)
      else if total < 24 then .error .truncatedChunkHeader
      else
        let (r, bs) := takeField 2 bs
        let (s, _) := takeField 18 bs
        if r = 0#2 then .ok (.chunkCopyLong s) else .ok (.chunkCopyLongBad r s)
    else if type = 1#3 then decodeCompressed short total bs .chunkTansShort .chunkTansLong
    else if type = 2#3 then decodeCompressed short total bs .chunkHuff2Short .chunkHuff2Long
    else if type = 3#3 then decodeCompressed short total bs .chunkRleShort .chunkRleLong
    else if type = 4#3 then decodeCompressed short total bs .chunkHuff4Short .chunkHuff4Long
    else if type = 5#3 then decodeCompressed short total bs .chunkRecursiveShort .chunkRecursiveLong
    else if type = 6#3 then .ok (.chunkType6 short (takeField 4 bs).1)
    else .ok (.chunkType7 short (takeField 4 bs).1)

/-- R91: `01` gamma, `00` sparse, `10` Golomb-Rice, `11` illegal. -/
def decodeSelector (bs : Bits) : Instr :=
  let (b0, bs) := takeBit bs
  let (b1, _) := takeBit bs
  match b0, b1 with
  | false, true => .entropySelGamma
  | false, false => .entropySelSparse
  | true, false => .entropySelGolombRice
  | true, true => .entropySelBad

/-- R92: the symbol and length pairs. -/
def decodePairs (w : Nat) : Nat → Bits → List (Byte × BitVec 4)
  | 0, _ => []
  | n + 1, bs =>
    let (s, bs) := takeField 8 bs
    let (l, bs) := takeNat w 0 bs
    (s, BitVec.ofNat 4 l) :: decodePairs w n bs

/-- R92. -/
def decodeSparse (bs : Bits) : Instr :=
  let (c, bs) := takeField 8 bs
  if c = 0#8 then .sparseZero
  else if c = 1#8 then .sparseOne (takeField 8 bs).1
  else
    let (w, bs) := takeField 3 bs
    .sparseMany c w (if w.toNat ≤ 4 then decodePairs w.toNat c.toNat bs else [])

/-- A code `0^n 1 b` with a field of `width n` bits (R93, R100, R103, R104). -/
def decodeCode (width : Nat → Nat) (bs : Bits) : Nat × Nat :=
  let (n, bs) := takeZeros 32 bs
  if n < 32 then (n, (takeNat (width n) 0 bs).1) else (n, 0)

/-- R97, R101, R102: the bits of a distance code, by its control byte. -/
def decodeDistance (c : CSel) (cb : Byte) (bs : Bits) : Instr :=
  let (x, bs) := takeNat (distanceBits cb) 0 bs
  if cb.toNat < 0xF0 then .distanceSmall c cb x else .distanceLarge c cb x (takeField 12 bs).1

/-- R97, R98: a packed-offset byte. -/
def decodeOffset (scaled : Bool) (bs : Bits) : Instr :=
  if scaled then
    let (k, bs) := takeField 5 bs
    let (l, _) := takeField 3 bs
    if k.toNat ≤ 26 then .lzOffsetScaled k l else .lzOffsetEarlyStop k l
  else
    let (h, bs) := takeField 4 bs
    let (l, _) := takeField 4 bs
    if h = 0xF#4 then .lzOffsetTradLarge l else .lzOffsetTradSmall h l

/-- An LZ table byte (R95 to R99) has 8 bits to be read from. -/
def decodeByte (bs : Bits) (f : Bits → Instr) : Except DecodeError Instr :=
  if bs.length < 8 then .error .noByte else .ok (f bs)

/-! ### The encoder -/

/-- R93: the pairs of a sparse code-length stream, lengths of `w` bits. -/
def encodePairs (w : Nat) : List (Byte × BitVec 4) → Bits
  | [] => []
  | (s, l) :: ps => bitsOf s ++ bitsOfNat w l.toNat ++ encodePairs w ps

/-- R81: a legal stream header. -/
def encodeStreamHeader (r u c : Bool) (fam : BitVec 7) : Bits :=
  r :: u :: (bitsOf (0#2) ++ bitsOf (0xC#4) ++ c :: bitsOf fam)

/-- R90: a short compressed chunk header. -/
def encodeShort (type : BitVec 3) (d s : BitVec 10) : Bits :=
  true :: (bitsOf type ++ bitsOf d ++ bitsOf s)

/-- R90: a long compressed chunk header. -/
def encodeLong (type : BitVec 3) (d s : BitVec 18) : Bits :=
  false :: (bitsOf type ++ bitsOf d ++ bitsOf s)

/-- The bits of an instruction, in source order, as the spec writes them.  The truncated headers and the operations have no
encoding. -/
def encodeElement : Instr → Option Bits
  | .ctrlStart x f => some (bitsOf x ++ [f, false, true])
  | .ctrlSoftReset x x0 => some (bitsOf x ++ [true, x0])
  | .ctrlForgetStream x => some (bitsOf x ++ [true, false, false])
  | .streamHeaderLzna r u c => some (encodeStreamHeader r u c 5)
  | .streamHeaderKraken r u c => some (encodeStreamHeader r u c 6)
  | .streamHeaderMermaid r u c => some (encodeStreamHeader r u c 10)
  | .streamHeaderBitknit r u c => some (encodeStreamHeader r u c 11)
  | .streamHeaderLeviathan r u c => some (encodeStreamHeader r u c 12)
  | .streamHeaderBadMagic x m y => some (bitsOf x ++ bitsOf m ++ bitsOf y)
  | .streamHeaderBadReserved x r y => some (bitsOf x ++ bitsOf r ++ bitsOf (0xC#4) ++ bitsOf y)
  | .streamHeaderBadFamily r u c f => some (encodeStreamHeader r u c f)
  | .streamHeaderTruncated => none
  | .krakenBhNormal x flag2 flag1 s => some (bitsOf x ++ flag2 :: flag1 :: bitsOf s)
  | .krakenBhNormalCk x flag2 flag1 s c => some (bitsOf x ++ flag2 :: flag1 :: (bitsOf s ++ bitsOf c))
  | .krakenBhFill k => some (bitsOf (1#6) ++ bitsOf (0x3FFFF#18) ++ bitsOf k)
  | .krakenBhBadSentinel e => some (bitsOf e ++ bitsOf (0x3FFFF#18))
  | .krakenBhTruncated => none
  | .lznaBhNormal flag2 flag1 s => some (flag2 :: flag1 :: bitsOf s)
  | .lznaBhNormalCk flag2 flag1 s c => some (flag2 :: flag1 :: (bitsOf s ++ bitsOf c))
  | .lznaBhWholeMatch => some (bitsOf (0x3FFF#16))
  | .lznaBhMemset k => some (bitsOf (0x7FFF#16) ++ bitsOf k)
  | .lznaBhRaw => some (bitsOf (0xBFFF#16))
  | .lznaBhBad => some (bitsOf (0xFFFF#16))
  | .quantumLz m u => some (true :: (bitsOf m ++ bitsOf u))
  | .quantumStored u => some (true :: (bitsOf (0#4) ++ bitsOf u))
  | .quantumEntropy x => some (false :: bitsOf x)
  | .chunkCopyShort s => some (true :: (bitsOf (0#3) ++ bitsOf s))
  | .chunkCopyLong s => some (false :: (bitsOf (0#3) ++ bitsOf (0#2) ++ bitsOf s))
  | .chunkCopyLongBad r s => some (false :: (bitsOf (0#3) ++ bitsOf r ++ bitsOf s))
  | .chunkTansShort d s => some (encodeShort 1 d s)
  | .chunkTansLong d s => some (encodeLong 1 d s)
  | .chunkHuff2Short d s => some (encodeShort 2 d s)
  | .chunkHuff2Long d s => some (encodeLong 2 d s)
  | .chunkRleShort d s => some (encodeShort 3 d s)
  | .chunkRleLong d s => some (encodeLong 3 d s)
  | .chunkHuff4Short d s => some (encodeShort 4 d s)
  | .chunkHuff4Long d s => some (encodeLong 4 d s)
  | .chunkRecursiveShort d s => some (encodeShort 5 d s)
  | .chunkRecursiveLong d s => some (encodeLong 5 d s)
  | .chunkType6 l x => some (l :: (bitsOf (6#3) ++ bitsOf x))
  | .chunkType7 l x => some (l :: (bitsOf (7#3) ++ bitsOf x))
  | .entropySelGamma => some [false, true]
  | .entropySelSparse => some [false, false]
  | .entropySelGolombRice => some [true, false]
  | .entropySelBad => some [true, true]
  | .sparseZero => some (bitsOf (0#8))
  | .sparseOne s => some (bitsOf (1#8) ++ bitsOf s)
  | .sparseMany c w pairs => some (bitsOf c ++ bitsOf w ++ encodePairs w.toNat pairs)
  | .gammaHeader f k => some (bitsOf f ++ [k])
  | .gammaZeroRun n b => some (zerosOneBits n (n + 1) b)
  | .gammaRunCount n b => some (zerosOneBits n (n + 1) b)
  | .gammaResidual f q b => some (zerosOneBits q f.toNat b)
  | .gammaCode _ n b => some (zerosOneBits n (n + 1) b)
  | .distanceSmall _ cb x => some (bitsOfNat (distanceBits cb) x)
  | .distanceLarge _ cb x y => some (bitsOfNat (distanceBits cb) x ++ bitsOf y)
  | .lengthCode _ n b => some (zerosOneBits n (n + 6) b)
  | .sideCountCode n b => some (zerosOneBits n n b)
  | .moreThan24 _ n b => some (bitsOfNat n b)
  | .lzFlagOk x => some (false :: bitsOf x)
  | .lzFlagBad x => some (true :: bitsOf x)
  | .lzScalingPresent s => some (true :: bitsOf s)
  | .lzScalingAbsent x => some (false :: bitsOf x)
  | .lzOffsetTradSmall h l => some (bitsOf h ++ bitsOf l)
  | .lzOffsetTradLarge n => some (bitsOf (0xF#4) ++ bitsOf n)
  | .lzOffsetScaled k l => some (bitsOf k ++ bitsOf l)
  | .lzOffsetEarlyStop k l => some (bitsOf k ++ bitsOf l)
  | .lzLengthByte v => some (bitsOf v)
  | .lzLengthEscape => some (bitsOf (0xFF#8))
  | .cursorInitFwd _ _ _ => none
  | .cursorInitBwd _ _ _ => none
  | .refill _ => none
  | .refillBackwards _ => none
  | .readBits _ _ => none
  | .readBitsZero _ _ => none
  | .readBit _ => none
  | .readBitNorefill _ => none
  | .readGamma _ => none
  | .readDistance _ _ => none
  | .readDistanceB _ _ => none
  | .readLength _ => none
  | .readLengthB _ => none
  | .readMoreThan24Bits _ _ => none
  | .readMoreThan24BitsB _ _ => none
  | .consumedPos _ => none

/-! ### The stated grammar -/

/-- The most source bytes of a header: 6, 5, 3 and 5 for the elements of R83, R85, R87 and R90. -/
def headerSize : Ctx → Nat
  | .krakenBh _ => 6
  | .lznaBh _ => 5
  | .quantum _ => 3
  | .chunk => 5
  | .streamHeader => 2
  | _ => 1

/-- File 93 Part 2: the layouts and grammars at the defaults the spec states. -/
def grammar : Grammar where
  wordOrder := fun _ bs => bs
  headerBytes := headerSize
  krakenBh := decodeKrakenBh
  lznaBh := decodeLznaBh
  quantum := decodeQuantum
  chunk := decodeChunk
  selector := decodeSelector
  sparse := decodeSparse
  gammaHeader := fun bs => let (f, bs) := takeField 2 bs; .gammaHeader f (takeBit bs).1
  gammaZero := fun bs => let (n, b) := decodeCode (fun n => n + 1) bs; .gammaZeroRun n b
  gammaRun := fun bs => let (n, b) := decodeCode (fun n => n + 1) bs; .gammaRunCount n b
  residual := fun f bs => let (q, b) := decodeCode (fun _ => f.toNat) bs; .gammaResidual f q b
  gammaCode := fun c bs => let (n, b) := decodeCode (fun n => n + 1) bs; .gammaCode c n b
  distance := decodeDistance
  lengthCode := fun c bs => let (n, b) := decodeCode (fun n => n + 6) bs; .lengthCode c n b
  sideCount := fun bs => let (n, b) := decodeCode (fun n => n) bs; .sideCountCode n b
  encode := encodeElement

/-- The decoder: the element that a bit string is in a context.  Total on every string; it rejects by name. -/
def decode (ctx : Ctx) (bs : Bits) (G : Grammar := grammar) : Except DecodeError Instr :=
  match ctx with
  | .ctrl => decodeCtrl bs
  | .streamHeader => decodeStreamHeader bs
  | .krakenBh ck => G.krakenBh ck (G.wordOrder (.krakenBh ck) bs)
  | .lznaBh ck => G.lznaBh ck (G.wordOrder (.lznaBh ck) bs)
  | .quantum cnt => G.quantum cnt (G.wordOrder (.quantum cnt) bs)
  | .chunk => G.chunk (G.wordOrder .chunk bs)
  | .selector => .ok (G.selector bs)
  | .sparse => .ok (G.sparse bs)
  | .gammaHeader => .ok (G.gammaHeader bs)
  | .gammaZero => .ok (G.gammaZero bs)
  | .gammaRun => .ok (G.gammaRun bs)
  | .residual f => .ok (G.residual f bs)
  | .gammaCode c => .ok (G.gammaCode c bs)
  | .distance c cb => .ok (G.distance c cb bs)
  | .lengthCode c => .ok (G.lengthCode c bs)
  | .sideCount => .ok (G.sideCount bs)
  | .moreThan24 c n => .ok (.moreThan24 c n (takeNat n 0 bs).1)
  | .lzFlag => decodeByte bs fun bs =>
      let (b, bs) := takeBit bs
      if b then .lzFlagBad (takeField 7 bs).1 else .lzFlagOk (takeField 7 bs).1
  | .lzScaling => decodeByte bs fun bs =>
      let (b, bs) := takeBit bs
      if b then .lzScalingPresent (takeField 7 bs).1 else .lzScalingAbsent (takeField 7 bs).1
  | .lzOffset scaled => decodeByte bs (decodeOffset scaled)
  | .lzLength => decodeByte bs fun bs =>
      let (v, _) := takeField 8 bs
      if v = 0xFF#8 then .lzLengthEscape else .lzLengthByte v

/-- The encoder: the bits of an instruction, in source order, most significant bit of each word first. -/
def encode (i : Instr) (G : Grammar := grammar) : Option Bits :=
  G.encode i

/-! ### The opcode table's words -/

/-- The bits of an opcode-table word: `nbits` bits, the most significant first, and zeros after them (the spec's words
are big-endian, R64, so this is source order). -/
def tableBits (nbits w : Nat) : Bits :=
  bitsOfNat nbits w ++ List.replicate 64 false

/-- The context an opcode-table word is read in.  The same bits are different elements in different contexts (R80); of the
rows of the word's length that the bits fit, the one that fixes the most bits names the context (log entry 12). -/
def tableCtx (nbits w : Nat) : Option Ctx :=
  match nbits with
  | 8 =>
    if w = 0x00 then some .sparse
    else if w = 0xFF then some .lzLength
    else if 0xF0 ≤ w then some (.lzOffset false)
    else if w / 16 % 8 = 6 ∨ w / 16 % 8 = 7 then some .chunk
    else if w < 0x80 then some .lzFlag
    else some .lzScaling
  | 16 =>
    if w = 0x3FFF ∨ w = 0x7FFF ∨ w = 0xBFFF ∨ w = 0xFFFF then some (.lznaBh false)
    else if w / 256 % 16 = 12 then some .streamHeader
    else if w / 256 = 1 then some .sparse
    else if w / 4096 = 8 then some .chunk
    else some (.lznaBh false)
  | 24 =>
    if w % 0x40000 = 0x3FFFF then some (.krakenBh false)
    else if w / 256 = 0x7FFF then some (.lznaBh false)
    else if w / 0x100000 = 0 then some .chunk
    else if 9 ≤ w / 0x100000 ∧ w / 0x100000 ≤ 13 then some .chunk
    else some (.quantum 0)
  | 32 => if w / 256 = 0x07FFFF then some (.krakenBh false) else some .ctrl
  | 40 => if 1 ≤ w / 0x1000000000 ∧ w / 0x1000000000 ≤ 5 then some .chunk else some (.lznaBh true)
  | 48 => some (.krakenBh true)
  | _ => none

/-- The instruction the decoder reads from an opcode-table word. -/
def decodeTableWord (nbits w : Nat) : Option Instr :=
  match tableCtx nbits w with
  | none => none
  | some ctx =>
    match decode ctx (tableBits nbits w) with
    | .ok i => some i
    | .error _ => none

end Sys2Proof
end

