-- ==== Sys2Proof/Machine/Types.lean ====
section
/-! DEFINITION. The records of the engine's state (spec file 10_state.md, rules R22 to R29), the address spaces
(R60 to R63) as memories, and the classes and causes of faults (R340, R342). -/

namespace Sys2Proof.Machine

/-- A byte memory: cells in strictly rising address order, nothing listed twice.  An unlisted address reads as NO
VALUE (`Memory.read` answers `none`), so no cell can equal what an unlisted address reads as and equal memories are
equal lists.  What the engine sees where no value stands is a free value of `Config` (log entry 3). -/
abbrev Memory := List Host.Cell

/-- R26: the sequencing phase. -/
inductive Phase
  | idle
  | expectStreamHeader
  | decodeBlock
  | finished
  | faulted
  | stopped
  deriving DecidableEq, Repr, Inhabited

/-- R22: the direction of a cursor. -/
inductive Dir
  | fwd
  | bwd
  deriving DecidableEq, Repr, Inhabited

/-- R61: the source space as a cursor sees it: its bytes, and how many of them are the source (SRC_LEN). -/
structure Source where
  bytes : Memory
  len : Nat

/-- R22: a bit cursor.  `window` is the `u32` bit window, `fillLevel` PTv7's `fill_level`, an `i32` (`Cursor.fill` is its value),
`pos` the byte position, an unbounded integer, and `[lo, hi)` the slice of the source space. -/
structure Cursor where
  window : Word
  fillLevel : BitVec 32
  pos : Int
  lo : Nat
  hi : Nat
  dir : Dir
  deriving DecidableEq, Repr, Inhabited

/-- R3, R82: the five decoder families a stream header can name. -/
inductive Family
  | lzna
  | kraken
  | mermaid
  | bitknit
  | leviathan
  deriving DecidableEq, Repr, Inhabited

/-- R24: the stream header register `SH`. -/
structure StreamHeader where
  family : Family
  restart : Bool
  uncompressed : Bool
  useChecksums : Bool
  deriving DecidableEq, Repr, Inhabited

/-- R25: the branch a block header took. -/
inductive BlockKind
  | coded
  | fill
  | raw
  deriving DecidableEq, Repr, Inhabited

/-- R25: the block header register `BH`. -/
structure BlockHeader where
  compressedSize : Word
  checksum : Word
  flag1 : Bool
  flag2 : Bool
  wholeMatchDistance : Word
  kind : BlockKind
  deriving DecidableEq, Repr, Inhabited

/-- R27: the code table `CT`.  `syms` is `array[1280] of u8` held by index, an index not listed holding no value. -/
structure CodeTable where
  syms : Memory
  codePrefix : Vector Word 12
  deriving DecidableEq, Repr, Inhabited

/-- R28: the LZ run table `LT`; `offs` and `lens` are `i32` words. -/
structure LzTable where
  lit : List Byte
  cmd : List Byte
  offsPacked : List Byte
  extra : Option (List Byte)
  lenPacked : List Byte
  scaling : Nat
  offs : List Word
  lens : List Word
  side : List Word
  deriving DecidableEq, Repr, Inhabited

/-- R29: the entropy temporaries. -/
structure Temps where
  avgBitsX4 : Int
  sym : Nat
  numSymbols : Nat
  forcedBits : BitVec 2
  deriving DecidableEq, Repr, Inhabited

/-- R31: the host registers that hold a value (CTRL holds none and reads 0). -/
structure HostRegs where
  status : Word
  srcLen : Word
  dstLen : Word
  srcUsed : Word
  dstUsed : Word
  savedHdr : Word
  deriving DecidableEq, Repr, Inhabited

/-- R340: the error classes. -/
inductive ErrClass
  | invalidFormat
  | truncatedInput
  | sizeMismatch
  | unsupportedFeature
  | earlyStop
  | internal
  deriving DecidableEq, Repr

/-- R342: the causes E01 to E58. -/
inductive Cause
  | e01 | e02 | e03 | e04 | e05 | e06 | e07 | e08 | e09 | e10
  | e11 | e12 | e13 | e14 | e15 | e16 | e17 | e18 | e19 | e20
  | e21 | e22 | e23 | e24 | e25 | e26 | e27 | e28 | e29 | e30
  | e31 | e32 | e33 | e34 | e35 | e36 | e37 | e38 | e39 | e40
  | e41 | e42 | e43 | e44 | e45 | e46 | e47 | e48 | e49 | e50
  | e51 | e52 | e53 | e54 | e55 | e56 | e57 | e58
  deriving DecidableEq, Repr

end Sys2Proof.Machine
end

