-- ==== Sys2Proof/Config.lean ====
section
/-! DEFINITION. What an implementation fixes and what the spec leaves open (spec rules R6, R10 and file 93).
`Params` holds the passages from general knowledge.  An OPEN parameter is an opaque `Option`: `none` is the spec's default (the fault or value file 93 names), `some f` a
supplied function, so every proof holds for both.  The free values are opaque functions of a counter of the state or
of an address: nothing can be proved of the value they give. -/

namespace Sys2Proof.Config

open Sys2Proof.Machine

/-- R194 to R199: a piece of the gamma path, read or done next. -/
inductive GammaPiece
  | zeroRun
  | runCount
  | oneLength
  | finish
  deriving DecidableEq, Repr

/-- R10, file 93 Part 2: the passages "from general knowledge", every row of that table a parameter.  `Machine.params` holds the stated
defaults.  Each operation and meaning that rests on one takes the record as an argument `P`, whose default is `params`, so a model
that does not trust a passage gives another record (`Machine.execWith`, `Machine.stepWith`).  (Log entry 4.) -/
structure Params where
  /-- R64, R83 to R87, R89 to R93, R100 to R104, R231: the layouts and grammars of the elements. -/
  grammar : Grammar
  /-- R6, R310: output bytes of a Kraken quantum sub-chunk. -/
  subchunkSize : Nat
  /-- R6, R283: the most side-buffer entries. -/
  sideMax : Nat
  /-- R8: `clz32`. -/
  leadingZeros : Word → Nat
  /-- R8: `rotl32`. -/
  rotateLeft : Word → Nat → Word
  /-- R8, R197: the zigzag map `zz`. -/
  zigzag : Nat → Int
  /-- R23: the valid bits of the window, an `i32`, by the fill level. -/
  room : BitVec 32 → BitVec 32
  /-- R30, R192: the first `CT.syms` slot of each code length; entry 0 is unused. -/
  codePrefixInit : Vector Word 12
  /-- R82, R162: whether a family is of the LZNA-family group. -/
  lznaGroup : Family → Bool
  /-- R84: the bytes of a Kraken-family fill header. -/
  krakenFillBytes : Nat
  /-- R87: the bytes of a quantum sub-chunk header. -/
  subchunkHeader : Nat
  /-- R83, R165: `compressed_size` from the Kraken-family size field. -/
  krakenSize : Nat → Nat
  /-- R85, R170: `compressed_size` from the LZNA-family size field. -/
  lznaSize : Nat → Nat
  /-- R90, R236: `dst_size` of the short chunk layout, from its difference and size fields. -/
  shortDstSize : BitVec 10 → BitVec 10 → Nat
  /-- R90, R237: `dst_size` of the long chunk layout. -/
  longDstSize : BitVec 18 → Nat
  /-- R121: the fill level of a new cursor, before it is filled. -/
  initialFill : BitVec 32
  /-- R121: the window of a new cursor, before it is filled. -/
  initialWindow : Word
  /-- R124: where a backward refill reads its byte, by the position before it. -/
  backwardAt : Int → Int
  /-- R126: what `read_bits_zero` gives for no bits. -/
  zeroWidthRead : Word
  /-- R127: whether `read_bit` refills first. -/
  readBitRefills : Bool
  /-- R127: whether `read_bit_norefill` does. -/
  readBitNorefillRefills : Bool
  /-- R100, R128: the gamma code's width, by its leading zeros. -/
  gammaWidth : Nat → Nat
  /-- R129: the mask `m` for `n` bits. -/
  distanceMask : Nat → Word
  /-- R101, R129: a small distance, from the rotated bits and the control byte. -/
  distanceSmall : Word → Byte → Word
  /-- R102, R129: a large distance, from the rotated bits and the 12 bits read after them. -/
  distanceLarge : Word → Word → Word
  /-- R129: whether `read_distance` ends with a refill. -/
  distanceRefills : Bool
  /-- R103, R131: the most leading zeros of a length code. -/
  lengthMaxZeros : Nat
  /-- R103, R131: the bits of a length's field beyond its leading zeros. -/
  lengthExtra : Nat
  /-- R103, R131: what is taken from a length. -/
  lengthBias : Word
  /-- R133: the bits of a wide read's first part. -/
  wideSplit : Nat
  /-- R135: the consumed position, by the direction, the position and the valid bits. -/
  consumedAt : Dir → Int → Int → Int
  /-- R104, R274: the bits of a side count's field beyond its leading zeros. -/
  sideCountExtra : Nat
  /-- R104, R274: what is taken from a side count. -/
  sideCountBias : Word
  /-- R104, R274: whether a side-count code may start in a window. -/
  sideCountLegal : Word → Bool
  /-- R274: the cursor the side count is read from. -/
  sideCountCursor : CSel
  /-- R274: whether the side count is read before the offsets; else after them. -/
  sideCountFirst : Bool
  /-- R167: `whole_match_distance` of a Kraken-family fill. -/
  krakenFillDistance : Word
  /-- R192: whether the code prefixes are initialised before each code-length read. -/
  freshPrefixes : Bool
  /-- R194: the bits of the forced-bits field. -/
  forcedBitsWidth : Nat
  /-- R194: the threshold of the residual's window, by the forced-bits count. -/
  gammaThreshold : Nat → Nat
  /-- R194, R199: what follows the gamma header, by the skip bit. -/
  gammaAfterHeader : Word → GammaPiece
  /-- R195: the window bits of which one must be set before a gamma code. -/
  gammaGuard : Word
  /-- R195: the symbols of a zero run, from its code. -/
  zeroRunLength : Nat → Nat
  /-- R199: what follows a zero run, by the symbol reached. -/
  gammaAfterZeroRun : Nat → GammaPiece
  /-- R196: the symbols of a run, from its code. -/
  runLength : Nat → Nat
  /-- R199: what follows a run count. -/
  gammaAfterCount : GammaPiece
  /-- R197: the bits of a residual, by its leading zeros and the forced bits. -/
  residualWidth : Nat → Nat → Nat
  /-- R197: a residual's value, from its leading zeros, the forced bits and the number its bits write. -/
  residualValue : Nat → Nat → Nat → Nat
  /-- R197: the predicted code length, from `avg_bits_x4`. -/
  prediction : Int → Int
  /-- R199: what follows one code length, by how many of the run are left and the symbol reached. -/
  gammaAfterLength : Nat → Nat → GammaPiece
  /-- R202: the bits of the sparse width field. -/
  sparseWidthBits : Nat
  /-- R92, R202: the code length that a sparse length field writes. -/
  sparseLength : Nat → Nat
  /-- R203: where a code-length read ends, from its cursor and that cursor's consumed position. -/
  codesEnd : Cursor → Int → Int
  /-- R210: the output of a one-symbol table, from the size and the symbol. -/
  oneSymbolOutput : Nat → Byte → List Byte
  /-- R210: the payload bytes a one-symbol table takes, from the payload's size. -/
  oneSymbolConsumed : Nat → Nat
  /-- R215: the payload bytes before the code lengths, by the chunk type: types 2 and 4 do not differ. -/
  huffSkip : Nat → Nat
  /-- R235: whether the capacity check comes before the truncation check. -/
  capacityFirst : Bool
  /-- R237: whether the two sizes of the long layout are legal. -/
  longSizesOk : Nat → Nat → Bool
  /-- R262: the least LZ payload. -/
  lzMinPayload : Nat
  /-- R264: the bytes the flag byte's examination consumes. -/
  flagConsumed : Nat
  /-- R267: the least that follows the command stream. -/
  lzMinAfterCommands : Nat
  /-- R265: the literal stream's capacity, from `cnt`. -/
  litCapacity : Nat → Nat
  /-- R266: the command stream's capacity, from `cnt`. -/
  cmdCapacity : Nat → Nat
  /-- R269: the packed offsets' capacity, from `|LT.cmd|`. -/
  offsCapacity : Nat → Nat
  /-- R271: the packed lengths' capacity, from `cnt`. -/
  lensCapacity : Nat → Nat
  /-- R275: the offset that a distance writes. -/
  offsetOf : Word → Word
  /-- R276: the scaled offset, from the command's two fields and the bits read. -/
  scaledOffset : Nat → BitVec 3 → Nat → Int
  /-- R285: whether the two consumed positions meet. -/
  cursorsMeet : Int → Int → Bool
  /-- R286: the packed length that a side value stands for. -/
  sideLength : Nat → Nat
  /-- R287: whether the side values are used up, from those used and their count. -/
  sideUsedUp : Nat → Nat → Bool
  /-- R306: whether `compressed_size` is legal for the block's size. -/
  payloadBound : Nat → Nat → Bool
  /-- R310: the least bytes at a sub-chunk's start. -/
  subchunkMinimum : Nat
  /-- R319: the bytes an entropy-only sub-chunk's header consumes before its chunk. -/
  entropyHeader : Nat
  /-- R320: whether a sub-chunk is an LZ one, from `used` and `cnt`. -/
  isLzSubchunk : Nat → Nat → Bool
  /-- R321: whether a sub-chunk is a stored one, from `used`, `cnt` and `mode`. -/
  isStored : Nat → Nat → Nat → Bool

/-- What `HuffDecode(type, CT, num, q, end, dst_size)` (R215) is given: the chunk type, the table, the symbol count,
`q - p` (the payload bytes the code-length read took), the source bytes of `[q, end)`, and the decoded size. -/
structure HuffArgs where
  type : Nat
  table : CodeTable
  num : Nat
  consumed : Int
  bytes : List Byte
  dstSize : Nat

/-- R215: failure (E39), a broken cursor precondition (E54, R352), or the output bytes with the payload bytes
consumed, counted from the payload's start. -/
inductive HuffAnswer
  | fail
  | misuse
  | decoded (out : List Byte) (consumed : Nat)

/-- R205: how a supplied `GolombRiceReader` ends. -/
inductive GolombRiceEnd
  | fail
  | misuse
  | symbols (num : Nat)

/-- What `GolombRiceReader(C, CT)` (R205) is given: the cursor, the source bytes of its slice, the code table and the
two constant tables of R30. -/
structure GolombRiceArgs where
  cursor : Cursor
  bytes : List Byte
  table : CodeTable
  bits2Value : Vector Nat 256
  bits2Length : Vector Nat 256

/-- R205: the insertions a supplied reader makes, in order, as (symbol, length); the bits it reads after the two fields
of R204; and its end. -/
structure GolombRiceAnswer where
  inserts : List (Byte × Nat)
  bits : Nat
  result : GolombRiceEnd

/-- R311: where one byte written by `ProcessLzRuns` comes from: the next literal of `LT.lit`, or an earlier
destination byte. -/
inductive LzByte
  | literal
  | copy (j : Nat)

/-- R311: how a supplied `ProcessLzRuns` ends. -/
inductive LzEnd
  | ok
  | fail
  | misuse

/-- R311: the bytes written, in increasing destination order, and the end. -/
structure LzAnswer where
  writes : List LzByte
  result : LzEnd

/-- R172: failure (E55), or the distance, at least 1, and the header bytes consumed. -/
inductive WholeMatchAnswer
  | fail
  | distance (dist : Word) (positive : dist ≠ 0) (consumed : Nat)

/-- R6, R34: a limit on `DST_LEN`, if one is set. -/
opaque maxDstLenParam : Option Nat

/-- R6, R34: `MAX_DST_LEN`, at most 2^31 - 1, which is also the default. -/
def maxDstLen : Nat := min (maxDstLenParam.getD 2147483647) 2147483647

/-- R215 (D21): `HuffDecode`; default E57. -/
opaque huffDecode : Option (HuffArgs → HuffAnswer)

/-- R205 (D22): `GolombRiceReader`; default E56. -/
opaque golombRiceReader : Option (GolombRiceArgs → GolombRiceAnswer)

/-- R30, R205: the constant table `Bits2Value`, contents OPEN. -/
opaque bits2Value : Vector Nat 256

/-- R30, R205: the constant table `Bits2Length`, contents OPEN. -/
opaque bits2Length : Vector Nat 256

/-- R311 (D23): `ProcessLzRuns(mode, LT, d, cnt)`; default E58. -/
opaque processLzRuns : Option (Nat → LzTable → Nat → Nat → LzAnswer)

/-- R272 (D30): `ScratchOk(lit, cmd, offs, lens, cnt)`; default always true. -/
opaque scratchOk : Option (Nat → Nat → Nat → Nat → Nat → Bool)

/-- R172 (D11): `LznaWholeMatchCodec`, given the source bytes from the header's first byte on; default E12. -/
opaque lznaWholeMatchCodec : Option (List Byte → WholeMatchAnswer)

/-- R372, file 93: the source byte at an offset the host has not written. -/
opaque powerOnSrc : Nat → Byte

/-- R372, file 93: the destination byte at an offset nothing has written. -/
opaque powerOnDst : Nat → Byte

/-- What R350 says a job's end depends on, besides the parameter functions: the source bytes (SRC_LEN of them), DST_LEN, and the
destination bytes before the job. -/
structure JobInputs where
  source : List Byte
  dstLen : Nat
  destination : List Byte

/-- R343: whether a destination byte keeps the value the job wrote when the job ends with a fault or an early stop.  R350: the
same for every job with the same inputs. -/
opaque keepAfterFault : JobInputs → Nat → Bool

/-- R371: whether, at the free-value count given, a destination byte keeps the value the job wrote when a soft reset ends it. -/
opaque keepAfterReset : Nat → Nat → Bool

/-- R374, file 93: what a register read other than of STATUS and SAVED_HDR gives while BUSY. -/
opaque busyRead : Nat → Word

/-- R370: the working records after a soft reset are unspecified. -/
opaque freeStreamHeader : Nat → StreamHeader
opaque freeBlockHeader : Nat → BlockHeader
opaque freeCursorA : Nat → Cursor
opaque freeCursorB : Nat → Cursor
opaque freeCodePrefix : Nat → Vector Word 12
opaque freeLzTable : Nat → LzTable
opaque freeTemps : Nat → Temps

end Sys2Proof.Config
end

