-- ==== Sys2Proof/Machine/Defaults.lean ====
section
/-! DEFINITION. The constants of the engine (spec rules R6, R27, R82, R162, R263, R340, R342), and the parameters of the passages
"from general knowledge" at their stated defaults (R10, file 93 Part 2; log entry 4). -/

namespace Sys2Proof.Machine

/-- R82, R162: the LZNA-family group is LZNA and BitKnit. -/
def defaultLznaGroup : Family → Bool
  | .lzna => true
  | .kraken => false
  | .mermaid => false
  | .bitknit => true
  | .leviathan => false

/-- R135: the consumed position: the bytes read, less the whole bytes of valid bits.  Where `24 - fill` is negative its `>> 3` rounds
down (log entry 35). -/
def defaultConsumedAt (dir : Dir) (pos room : Int) : Int :=
  match dir with
  | .fwd => pos - room / 8
  | .bwd => pos + room / 8

/-- R101, R129: a small distance. -/
def defaultDistanceSmall (field : Word) (cb : Byte) : Word :=
  (field <<< 4) + (cb &&& 0xF#8).setWidth 32 - 248

/-- R102, R129: a large distance. -/
def defaultDistanceLarge (field low : Word) : Word :=
  8322816 + (field <<< 12) + low

/-- R197: the field read is `1 b`, so `r - 2^F` is `b` and the subtraction is exact. -/
def defaultResidualValue (lz f r : Nat) : Nat :=
  r - 2 ^ f + lz * 2 ^ f

/-- R10, file 93 Part 2: the parameters, each at the default the spec states.  (That `prediction` rounds down on a negative number is
log entry 35.) -/
def params : Config.Params where
  grammar := grammar
  subchunkSize := 0x20000
  sideMax := 512
  leadingZeros := clz32
  rotateLeft := rotl32
  zigzag := zz
  room := fun fill => 24#32 - fill
  codePrefixInit := #v[0x0, 0x0, 0x2, 0x6, 0xE, 0x1E, 0x3E, 0x7E, 0xFE, 0x1FE, 0x2FE, 0x3FE]
  lznaGroup := defaultLznaGroup
  krakenFillBytes := 4
  subchunkHeader := 3
  krakenSize := fun s => s + 1
  lznaSize := fun s => s + 1
  shortDstSize := defaultShortDstSize
  longDstSize := defaultLongDstSize
  initialFill := 24
  initialWindow := 0
  backwardAt := fun pos => pos - 1
  zeroWidthRead := 0
  readBitRefills := true
  readBitNorefillRefills := false
  gammaWidth := fun lz => 2 * lz + 2
  distanceMask := defaultDistanceMask
  distanceSmall := defaultDistanceSmall
  distanceLarge := defaultDistanceLarge
  distanceRefills := true
  lengthMaxZeros := 12
  lengthExtra := 7
  lengthBias := 64
  wideSplit := 24
  consumedAt := defaultConsumedAt
  sideCountExtra := 1
  sideCountBias := 1
  sideCountLegal := fun window => decide (0x2000 ≤ window.toNat)
  sideCountCursor := .b
  sideCountFirst := true
  krakenFillDistance := 0
  freshPrefixes := true
  forcedBitsWidth := 2
  gammaThreshold := fun f => 2 ^ (31 - 20 / 2 ^ f)
  gammaAfterHeader := fun skip => if skip = 1 then .runCount else .zeroRun
  gammaGuard := 0xFF000000
  zeroRunLength := fun z => z + 1
  gammaAfterZeroRun := fun sym => if 256 ≤ sym then .finish else .runCount
  runLength := fun r => r + 1
  gammaAfterCount := .oneLength
  residualWidth := fun lz f => lz + f + 1
  residualValue := defaultResidualValue
  prediction := fun avg => (avg + 2) / 4
  gammaAfterLength := fun left sym => if 0 < left then .oneLength else if sym = 256 then .finish else .zeroRun
  sparseWidthBits := 3
  sparseLength := fun field => field + 1
  codesEnd := fun _ consumed => consumed
  oneSymbolOutput := List.replicate
  oneSymbolConsumed := fun srcSize => srcSize
  huffSkip := fun _ => 0
  capacityFirst := true
  longSizesOk := fun srcSize dstSize => decide (srcSize < dstSize)
  lzMinPayload := 13
  flagConsumed := 0
  lzMinAfterCommands := 3
  litCapacity := fun cnt => cnt
  cmdCapacity := fun cnt => cnt
  offsCapacity := fun commands => commands
  lensCapacity := fun cnt => cnt / 4
  offsetOf := fun distance => -distance
  scaledOffset := defaultScaledOffset
  cursorsMeet := fun a b => a == b
  sideLength := fun v => v + 255
  sideUsedUp := fun used count => used == count
  payloadBound := fun size bs => decide (size ≤ bs)
  subchunkMinimum := 4
  entropyHeader := 0
  isLzSubchunk := fun used cnt => decide (used < cnt)
  isStored := fun used cnt mode => used == cnt && mode == 0

/-- R82, R162: the two layout groups; true for the LZNA-family. -/
def Family.isLzna (fam : Family) (P : Config.Params := params) : Bool :=
  P.lznaGroup fam

/-- R82: the family code. -/
def Family.code : Family → BitVec 7
  | .lzna => 5
  | .kraken => 6
  | .mermaid => 10
  | .bitknit => 11
  | .leviathan => 12

/-- R162: 16384 bytes for the LZNA-family, 262144 for the Kraken-family. -/
def blockSize (fam : Family) (P : Config.Params := params) : Nat :=
  if fam.isLzna P then 16384 else 262144

/-- R6, R301: the stream header is read again every 262144 bytes of output. -/
def headerPeriod : Nat := 0x40000

/-- R27: the slots of `CT.syms`. -/
def symsSize : Nat := 1280

/-- R263: the seed's bytes. -/
def seedSize : Nat := 8

/-- R194: `avg_bits_x4` at the start of a gamma path. -/
def avgBitsInit : Int := 32

/-- R340: the number of a class. -/
def ErrClass.number : ErrClass → Nat
  | .invalidFormat => 1
  | .truncatedInput => 2
  | .sizeMismatch => 3
  | .unsupportedFeature => 4
  | .earlyStop => 5
  | .internal => 6

/-- R342: the number of a cause. -/
def Cause.number : Cause → Nat
  | .e01 => 1 | .e02 => 2 | .e03 => 3 | .e04 => 4 | .e05 => 5 | .e06 => 6 | .e07 => 7 | .e08 => 8 | .e09 => 9
  | .e10 => 10 | .e11 => 11 | .e12 => 12 | .e13 => 13 | .e14 => 14 | .e15 => 15 | .e16 => 16 | .e17 => 17
  | .e18 => 18 | .e19 => 19 | .e20 => 20 | .e21 => 21 | .e22 => 22 | .e23 => 23 | .e24 => 24 | .e25 => 25
  | .e26 => 26 | .e27 => 27 | .e28 => 28 | .e29 => 29 | .e30 => 30 | .e31 => 31 | .e32 => 32 | .e33 => 33
  | .e34 => 34 | .e35 => 35 | .e36 => 36 | .e37 => 37 | .e38 => 38 | .e39 => 39 | .e40 => 40 | .e41 => 41
  | .e42 => 42 | .e43 => 43 | .e44 => 44 | .e45 => 45 | .e46 => 46 | .e47 => 47 | .e48 => 48 | .e49 => 49
  | .e50 => 50 | .e51 => 51 | .e52 => 52 | .e53 => 53 | .e54 => 54 | .e55 => 55 | .e56 => 56 | .e57 => 57
  | .e58 => 58

/-- R342: the class of a cause. -/
def Cause.cls : Cause → ErrClass
  | .e04 | .e07 | .e08 | .e10 | .e15 | .e16 | .e19 | .e20 | .e23 | .e41 => .truncatedInput
  | .e14 | .e18 | .e28 | .e43 | .e49 | .e50 => .sizeMismatch
  | .e12 | .e13 | .e27 | .e44 | .e47 | .e56 | .e57 | .e58 => .unsupportedFeature
  | .e52 => .earlyStop
  | .e54 => .internal
  | .e01 | .e02 | .e03 | .e05 | .e06 | .e09 | .e11 | .e17 | .e21 | .e22 | .e24 | .e25 | .e26 | .e29 | .e30
  | .e31 | .e32 | .e33 | .e34 | .e35 | .e36 | .e37 | .e38 | .e39 | .e40 | .e42 | .e45 | .e46 | .e48 | .e51
  | .e53 | .e55 => .invalidFormat

end Sys2Proof.Machine
end

