-- ==== Sys2Proof/Machine/Memory.lean ====
section
/-! DEFINITION. Byte memories (spec rules R60 to R63, R66): reading, writing, the canonical form, and what the engine sees
at an offset that holds no value. -/

namespace Sys2Proof.Machine

/-- What a memory holds at an address; an unlisted address holds no value. -/
def Memory.read : Memory → Nat → Option Byte
  | [], _ => none
  | (k, v) :: m, a => if k = a then some v else Memory.read m a

/-- Store one byte (R62: a write stores `u8 b` at `i`), keeping the addresses rising. -/
def Memory.write : Memory → Nat → Byte → Memory
  | [], a, v => [(a, v)]
  | (k, w) :: m, a, v =>
    if a < k then (a, v) :: (k, w) :: m
    else if a = k then (a, v) :: m
    else (k, w) :: Memory.write m a v

/-- Store bytes at rising addresses from `a` on. -/
def Memory.writeList : Memory → Nat → List Byte → Memory
  | m, _, [] => m
  | m, a, b :: bs => Memory.writeList (Memory.write m a b) (a + 1) bs

/-- Every address listed is above `a`, and the addresses rise. -/
def Memory.wfAbove : Nat → Memory → Bool
  | _, [] => true
  | a, (k, _) :: m => decide (a < k) && Memory.wfAbove k m

/-- The canonical form: strictly rising addresses. -/
def Memory.wf : Memory → Bool
  | [] => true
  | (k, _) :: m => Memory.wfAbove k m

/-- R343: every byte is either its value before the job or a value the job wrote; `keep` says which. -/
def Memory.mergeFree (keep : Nat → Bool) (old : Memory) : Memory → Memory
  | [] => old
  | (a, v) :: m =>
    let merged := Memory.mergeFree keep old m
    if keep a then Memory.write merged a v else merged

/-- The source byte at an offset: what the host wrote, else a free value (R372). -/
def srcValue (m : Memory) (i : Nat) : Byte :=
  (Memory.read m i).getD (Config.powerOnSrc i)

/-- The destination byte at an offset: what was written last, else a free value (R372). -/
def dstValue (m : Memory) (i : Nat) : Byte :=
  (Memory.read m i).getD (Config.powerOnDst i)

/-- `n` destination bytes from offset `i` on. -/
def dstValues (m : Memory) : Nat → Nat → List Byte
  | _, 0 => []
  | i, n + 1 => dstValue m i :: dstValues m (i + 1) n

/-- `n` source bytes from offset `i` on. -/
def srcValues (m : Memory) : Nat → Nat → List Byte
  | _, 0 => []
  | i, n + 1 => srcValue m i :: srcValues m (i + 1) n

end Sys2Proof.Machine
end

