-- ==== Sys2Proof/Machine/Cursor.lean ====
section
/-! DEFINITION. The variable-length bitstream reader (spec file 41_bitcursor.md) as functions on a cursor and the source
space.  An operation answers its result with the cursor after it, or the cause E54 where a precondition is broken (R120) with
the cursor as the operation had written it by then (R9, R341); `Dir` chooses between `refill` and `refill_backwards`.
Arithmetic on the fill level is `i32`.  `P` holds the passages from general knowledge (R10). -/

namespace Sys2Proof.Machine

/-- R22: the fill level as a number. -/
def Cursor.fill (c : Cursor) : Int :=
  c.fillLevel.toInt

/-- R23: `24 - C.fill`, an `i32`. -/
def Cursor.room (c : Cursor) (P : Config.Params := params) : Int :=
  (P.room c.fillLevel).toInt

/-- R123, R124: the byte a refill takes at a position; 0 outside the cursor's slice, and past the source's end (R61, R123;
log entry 16). -/
def Cursor.byteAt (src : Source) (c : Cursor) (pos : Int) : Byte :=
  if (c.lo : Int) ≤ pos ∧ pos < (c.hi : Int) ∧ pos < (src.len : Int) then srcValue src.bytes pos.toNat else 0

/-- One iteration of the loop of R123 (forward) or R124 (backward, which decrements first, so that it reads the byte before). -/
def Cursor.pull (dir : Dir) (src : Source) (c : Cursor) (P : Config.Params := params) : Cursor :=
  match dir with
  | .fwd =>
    { c with window := c.window ||| ((c.byteAt src c.pos).setWidth 32 <<< c.fill.toNat), fillLevel := c.fillLevel - 8,
             pos := c.pos + 1 }
  | .bwd =>
    { c with window := c.window ||| ((c.byteAt src (P.backwardAt c.pos)).setWidth 32 <<< c.fill.toNat), fillLevel := c.fillLevel - 8,
             pos := c.pos - 1 }

/-- The loop `while C.fill > 0`, for at most so many bytes. -/
def Cursor.fillLoop (dir : Dir) (src : Source) (n : Nat) (c : Cursor) (P : Config.Params := params) : Cursor :=
  match n with
  | 0 => c
  | n + 1 => if 0 < c.fill then Cursor.fillLoop dir src n (c.pull dir src P) P else c

/-- R123, R124: with `fill <= 24` three bytes are enough. -/
def Cursor.refillDir (dir : Dir) (src : Source) (c : Cursor) (P : Config.Params := params) :
    Except (Cause × Cursor) Cursor :=
  if c.fill ≤ 24 then .ok (c.fillLoop dir src 3 P) else .error (.e54, c)

/-- R121: an empty window over `[lo, hi)`, then filled. -/
def Cursor.initFwd (src : Source) (lo hi : Nat) (P : Config.Params := params) : Cursor :=
  Cursor.fillLoop .fwd src 3
    { window := P.initialWindow, fillLevel := P.initialFill, pos := lo, lo := lo, hi := hi, dir := .fwd } P

/-- R122. -/
def Cursor.initBwd (src : Source) (lo hi : Nat) (P : Config.Params := params) : Cursor :=
  Cursor.fillLoop .bwd src 3
    { window := P.initialWindow, fillLevel := P.initialFill, pos := hi, lo := lo, hi := hi, dir := .bwd } P

/-- Shift `n` bits out of the window: `C.window << n`, `C.fill + n`. -/
def Cursor.drop (c : Cursor) (n : Nat) : Cursor :=
  { c with window := c.window <<< n, fillLevel := c.fillLevel + BitVec.ofNat 32 n }

/-- R125. -/
def Cursor.readBits (c : Cursor) (n : Nat) (P : Config.Params := params) :
    Except (Cause × Cursor) (Word × Cursor) :=
  if 1 ≤ n ∧ n ≤ 24 ∧ (n : Int) ≤ c.room P then .ok (c.window >>> (32 - n), c.drop n) else .error (.e54, c)

/-- R126. -/
def Cursor.readBitsZero (c : Cursor) (n : Nat) (P : Config.Params := params) :
    Except (Cause × Cursor) (Word × Cursor) :=
  if n = 0 then .ok (P.zeroWidthRead, c) else c.readBits n P

/-- R127: one bit, after a forward `refill` or without one. -/
def Cursor.readOneBit (refills : Bool) (src : Source) (c : Cursor) (P : Config.Params := params) :
    Except (Cause × Cursor) (Word × Cursor) := do
  let c ← if refills then c.refillDir .fwd src P else .ok c
  c.readBits 1 P

/-- R127: `refill`, then one bit. -/
def Cursor.readBit (src : Source) (c : Cursor) (P : Config.Params := params) : Except (Cause × Cursor) (Word × Cursor) :=
  c.readOneBit P.readBitRefills src P

/-- R127: one bit, no refill. -/
def Cursor.readBitNorefill (src : Source) (c : Cursor) (P : Config.Params := params) :
    Except (Cause × Cursor) (Word × Cursor) :=
  c.readOneBit P.readBitNorefillRefills src P

/-- R128; the field read is at least 2, so the subtraction is exact. -/
def Cursor.readGamma (c : Cursor) (P : Config.Params := params) : Except (Cause × Cursor) (Nat × Cursor) := do
  let width := P.gammaWidth (P.leadingZeros c.window)
  if width < 24 then
    let (r, c) ← c.readBits width P
    return (r.toNat - 2, c)
  else throw (.e54, c)

/-- R129, R130: the part before the first refill: the rotated window `w`, with the cursor after the bits taken from it,
`w & ~m`. -/
def Cursor.distanceHead (c : Cursor) (n : Nat) (P : Config.Params := params) : Word × Cursor :=
  let w := P.rotateLeft (c.window ||| 1) n
  (w &&& P.distanceMask n,
    { c with window := w &&& ~~~(P.distanceMask n), fillLevel := c.fillLevel + BitVec.ofNat 32 n })

/-- R129 (forward), R130 (backward). -/
def Cursor.readDistance (dir : Dir) (src : Source) (c : Cursor) (cb : Byte) (P : Config.Params := params) :
    Except (Cause × Cursor) (Word × Cursor) := do
  let (field, c) := c.distanceHead (distanceBits cb) P
  if cb.toNat < 0xF0 then
    let rv := P.distanceSmall field cb
    let c ← if P.distanceRefills then c.refillDir dir src P else .ok c
    return (rv, c)
  else
    let c ← c.refillDir dir src P
    let rv := P.distanceLarge field (c.window >>> 20)
    let c := c.drop 12
    let c ← if P.distanceRefills then c.refillDir dir src P else .ok c
    return (rv, c)

/-- R131 (forward), R132 (backward): `(ok, value)`. -/
def Cursor.readLength (dir : Dir) (src : Source) (c : Cursor) (P : Config.Params := params) :
    Except (Cause × Cursor) ((Bool × Word) × Cursor) := do
  let n := P.leadingZeros c.window
  if P.lengthMaxZeros < n then return ((false, 0), c)
  let c ← (c.drop n).refillDir dir src P
  let n := n + P.lengthExtra
  let rv := (c.window >>> (32 - n)) - P.lengthBias
  let c ← (c.drop n).refillDir dir src P
  return ((true, rv), c)

/-- R133 (forward), R134 (backward). -/
def Cursor.readMoreThan24 (dir : Dir) (src : Source) (c : Cursor) (n : Nat) (P : Config.Params := params) :
    Except (Cause × Cursor) (Word × Cursor) := do
  if n ≤ 24 then
    let (rv, c) ← c.readBitsZero n P
    let c ← c.refillDir dir src P
    return (rv, c)
  else
    let (high, c) ← c.readBits P.wideSplit P
    let c ← c.refillDir dir src P
    let (low, c) ← c.readBits (n - P.wideSplit) P
    let c ← c.refillDir dir src P
    return ((high <<< (n - P.wideSplit)) + low, c)

/-- R274, after its window check: the side count, from a cursor read in the direction given. -/
def Cursor.readSideCount (dir : Dir) (src : Source) (c : Cursor) (P : Config.Params := params) :
    Except (Cause × Cursor) (Word × Cursor) := do
  let n := P.leadingZeros c.window
  let c ← (c.drop n).refillDir dir src P
  let n := n + P.sideCountExtra
  let count := (c.window >>> (32 - n)) - P.sideCountBias
  let c ← (c.drop n).refillDir dir src P
  return (count, c)

/-- R135. -/
def Cursor.consumedPos (c : Cursor) (P : Config.Params := params) : Int :=
  P.consumedAt c.dir c.pos (c.room P)

/-- R23: the valid bits of the window. -/
def Cursor.validBits (c : Cursor) (P : Config.Params := params) : Nat :=
  (c.room P).toNat

/-- The bits of the next `k` bytes a refill would take. -/
def Cursor.nextBytes (src : Source) (c : Cursor) (k : Nat) (pos : Int) (P : Config.Params := params) : Bits :=
  match k with
  | 0 => []
  | k + 1 =>
    match c.dir with
    | .fwd => bitsOf (c.byteAt src pos) ++ Cursor.nextBytes src c k (pos + 1) P
    | .bwd => bitsOf (c.byteAt src (P.backwardAt pos)) ++ Cursor.nextBytes src c k (pos - 1) P

/-- R23, R65: the bits the cursor will read next: the window's valid bits, then those of `k` bytes more. -/
def Cursor.upcoming (src : Source) (k : Nat) (c : Cursor) (P : Config.Params := params) : Bits :=
  (bitsOfNat 32 c.window.toNat).take (c.validBits P) ++ c.nextBytes src k c.pos P

end Sys2Proof.Machine
end

