-- ==== Sys2Proof/Machine/Flags.lean ====
section
/-! DEFINITION. The flag words the host reads (spec rules R33, R36, R37): STATUS and SAVED_HDR, their fields and the
values the engine gives them. -/

namespace Sys2Proof.Machine

/-- R33: STATUS while a job runs. -/
def statusBusy : Word := 0x1

/-- R33: STATUS after success. -/
def statusDone : Word := 0x2

/-- R33, R341: STATUS after a fault: `ERR` with class and cause, or `EARLY_STOP` with class 5 and the cause. -/
def statusFault (c : Cause) : Word :=
  (if c.cls = .earlyStop then 0x8#32 else 0x4#32) ||| (BitVec.ofNat 32 c.cls.number <<< 4)
    ||| (BitVec.ofNat 32 c.number <<< 8)

/-- R33: STATUS bit 0. -/
def busyBit (w : Word) : Bool := w.getLsbD 0

/-- R33: STATUS bit 1. -/
def doneBit (w : Word) : Bool := w.getLsbD 1

/-- R33: STATUS bit 2. -/
def errBit (w : Word) : Bool := w.getLsbD 2

/-- R33: STATUS bit 3. -/
def earlyStopBit (w : Word) : Bool := w.getLsbD 3

/-- R33: STATUS bits 7:4. -/
def errClass (w : Word) : BitVec 4 := w.extractLsb' 4 4

/-- R33: STATUS bits 15:8. -/
def errCause (w : Word) : BitVec 8 := w.extractLsb' 8 8

/-- R36: SAVED_HDR after a stream header: bits 6:0 family, 7 checksums, 8 uncompressed, 9 restart, 31 VALID. -/
def savedHdrOf (h : StreamHeader) : Word :=
  1#1 ++ 0#21 ++ BitVec.ofBool h.restart ++ BitVec.ofBool h.uncompressed ++ BitVec.ofBool h.useChecksums
    ++ h.family.code

/-- R36: bit 31. -/
def savedValid (w : Word) : Bool := w.getLsbD 31

/-- R36: VALID cleared, the other bits left as they were. -/
def clearValid (w : Word) : Word := w &&& 0x7FFFFFFF#32

end Sys2Proof.Machine
end

