-- ==== Sys2Proof/Machine/State.lean ====
section
/-! DEFINITION. The state of the engine and of its host port (spec rules R20 to R38), the reasons a step can stop, and
the state after reset.  Fields marked "model" are not the spec's: they hold what the spec's pseudocode keeps in local
variables or in its own control flow, the host's pending accesses, and the count of free values drawn. -/

namespace Sys2Proof.Machine

/-- Why a step stops without a next state.  None of these is a fault of the spec: the spec's faults E01 to E58 are taken
as next states (R341). -/
inductive Fault
  /-- Raised by a source read at an offset `>= SRC_LEN` (R61: there is no such byte).  Safe: the rules check the
  length first, so no run that starts at reset meets it. -/
  | srcOutside
  /-- Raised by a destination access at an offset `>= DST_LEN` (R62: there is no such byte).  Safe, as above. -/
  | dstOutside
  /-- Raised by an insertion at an index of `CT.syms` above 1279 (R27: `array[1280]`).  Safe: R208 shows that the
  in-scope readers never reach one. -/
  | symsOutside
  deriving DecidableEq, Repr

/-- Why the model gives a step no meaning. -/
inductive Refusal
  /-- Raised by `exec` for an instruction without a meaning.  No arm uses it.  Safe. -/
  | notModelled (mnemonic : String)
  /-- Raised when the host touches the source or destination space while BUSY (R374; file 93 says "refuse").
  Safe. -/
  | hostDuty
  /-- Raised when a supplied OPEN function breaks its contract (R205, R215, R311; file 93 says "refuse").  Safe. -/
  | openContract
  /-- Raised by a read of a `CT.syms` entry that holds no value (R27; file 93 says "refuse").  Safe. -/
  | unwrittenSymbol
  /-- Raised by a bit-level element given to `exec` in a state whose cursor does not hold its bits: the element is not
  there to be read (log entry 13).  Safe: `step` only runs what it has read from the cursor. -/
  | notAtCursor
  deriving DecidableEq, Repr

/-- Model: what the sequencer does next.  Where an element is expected, the name is the element's (`Ctx`); the other
names are steps of the spec's pseudocode that read no element. -/
inductive Ctl
  | idle
  | blockStart
  | streamHeader
  | blockEntry
  | blockHeader
  | blockBody
  | quantumLoop
  | subHeader
  | tableStart
  | lzFlag
  | chunk
  | selector
  | sparse
  | gammaHeader
  | gammaZero
  | gammaRun
  | gammaResidual
  | gammaFinish
  | codesDone
  | lzScaling
  | unpackStart
  | sideCount
  | offsets
  | sideValues
  | sideStore
  | lengths
  | lzRuns
  | blockEnd
  deriving DecidableEq, Repr, Inhabited

/-- Model: which caller a chunk's output goes to (R319, R265, R266, R269, R270, R271). -/
inductive ChunkDest
  | entropy
  | lit
  | cmd
  | offs
  | extra
  | lens
  deriving DecidableEq, Repr, Inhabited

/-- Model: the local variables of the pseudocode of R301 (`s`, `bs`), R310 (`p`, `e`, `d`, `cnt`, `mode`), R260 (`lp`
its `p`, `q`), R230 (`cp` its `p`, `cend` its `end`, `cap`, `hdr`, `srcSize`, `dstSize`, `ctype`; `dest` its caller),
R191 (`num`), R196 (`runLeft`, the symbols left in the run) and R274 to R287 (`idx` the running index, `sideCount`,
`sideUsed` the `k` of R286). -/
structure Locals where
  s : Nat
  bs : Nat
  p : Nat
  e : Nat
  d : Nat
  cnt : Nat
  mode : Nat
  lp : Nat
  q : Nat
  cp : Nat
  cend : Nat
  cap : Nat
  dest : ChunkDest
  hdr : Nat
  srcSize : Nat
  dstSize : Nat
  ctype : Nat
  num : Nat
  runLeft : Nat
  idx : Nat
  sideCount : Nat
  sideUsed : Nat
  deriving DecidableEq, Repr, Inhabited

/-- Model: one access of the host (R20, R31, R61, R62).  A register access names a 32-bit word of the register window,
word `k` standing at offset `4 * k`. -/
inductive HostOp
  | regWrite (word : Nat) (v : Word)
  | regRead (word : Nat)
  | srcWrite (a : Nat) (b : Byte)
  | dstRead (a : Nat)
  | dstWrite (a : Nat) (b : Byte)
  deriving DecidableEq, Repr

/-- Model: a host access that lands after `wait` more block steps (R380: each block step is atomic to the host). -/
structure HostEvent where
  wait : Nat
  op : HostOp
  deriving DecidableEq, Repr

/-- The state of the engine (R21) and of its host port. -/
structure State where
  /-- R26. -/
  phase : Phase
  /-- R26: the next unread source byte of the orchestrator. -/
  sp : Nat
  /-- R26: the output bytes produced. -/
  off : Nat
  /-- R24. -/
  sh : StreamHeader
  /-- R25. -/
  bh : BlockHeader
  /-- R21, R22: cursor A. -/
  a : Cursor
  /-- R21, R22: cursor B. -/
  b : Cursor
  /-- R27. -/
  ct : CodeTable
  /-- R28. -/
  lt : LzTable
  /-- R29. -/
  tmp : Temps
  /-- R31 to R36. -/
  regs : HostRegs
  /-- R61: the source space. -/
  src : Memory
  /-- R62: the destination space. -/
  dst : Memory
  /-- Model: the destination space as it stood at START, for R343. -/
  dst0 : Memory
  /-- Model: the sequencer's next step. -/
  ctl : Ctl
  /-- Model: the pseudocode's local variables. -/
  loc : Locals
  /-- Model: the result of the last cursor operation or code issued on its own (R120 to R135). -/
  res : Int
  /-- Model: the `ok` of `read_length` (R131). -/
  resOk : Bool
  /-- Model: the host's pending accesses, the next one first. -/
  host : List HostEvent
  /-- Model: what the host's last read returned. -/
  hostData : Word
  /-- Model: operations issued on their own, the next one first; the sequencer issues none. -/
  direct : List Instr
  /-- Model: how many free values have been drawn. -/
  fresh : Nat
  deriving DecidableEq, Repr

/-- Model: the local variables before any job. -/
def Locals.zero : Locals :=
  { s := 0, bs := 0, p := 0, e := 0, d := 0, cnt := 0, mode := 0, lp := 0, q := 0, cp := 0, cend := 0, cap := 0,
    dest := .entropy, hdr := 0, srcSize := 0, dstSize := 0, ctype := 0, num := 0, runLeft := 0, idx := 0,
    sideCount := 0, sideUsed := 0 }

/-- A cursor register before any job (R38: unspecified; log entry 2). -/
def Cursor.zero (dir : Dir) : Cursor :=
  { window := 0, fillLevel := 0, pos := 0, lo := 0, hi := 0, dir := dir }

/-- R38, R370, R372: the state after power-on reset.  The registers of R31 and the sequencing state hold the spec's
values; the working records, bits 9:0 of SAVED_HDR and the fields marked "model" hold the values of log entry 2. -/
def State.reset : State :=
  { phase := .idle, sp := 0, off := 0,
    sh := { family := .kraken, restart := false, uncompressed := false, useChecksums := false },
    bh := { compressedSize := 0, checksum := 0, flag1 := false, flag2 := false, wholeMatchDistance := 0, kind := .coded },
    a := Cursor.zero .fwd, b := Cursor.zero .bwd,
    ct := { syms := [], codePrefix := Vector.replicate 12 0 },
    lt := { lit := [], cmd := [], offsPacked := [], extra := none, lenPacked := [], scaling := 0, offs := [], lens := [],
            side := [] },
    tmp := { avgBitsX4 := 0, sym := 0, numSymbols := 0, forcedBits := 0 },
    regs := { status := 0, srcLen := 0, dstLen := 0, srcUsed := 0, dstUsed := 0, savedHdr := 0 },
    src := [], dst := [], dst0 := [], ctl := .idle, loc := Locals.zero, res := 0, resOk := false, host := [],
    hostData := 0, direct := [], fresh := 0 }

end Sys2Proof.Machine
end

