-- ==== Sys2Proof/Machine/Ops.lean ====
section
/-! DEFINITION. The shared operations over the state: the updates of each field, the engine's computations (`Eng`), the
fault action (R341), the accesses to the source and destination spaces (R61, R62) and the cursor registers. -/

namespace Sys2Proof.Machine

/-! ### Field updates -/

def State.setPhase (s : State) (v : Phase) : State := { s with phase := v }
def State.setPos (s : State) (sp off : Nat) : State := { s with sp := sp, off := off }
def State.setSh (s : State) (v : StreamHeader) : State := { s with sh := v }
def State.setBh (s : State) (v : BlockHeader) : State := { s with bh := v }
def State.setA (s : State) (v : Cursor) : State := { s with a := v }
def State.setB (s : State) (v : Cursor) : State := { s with b := v }
def State.setCt (s : State) (v : CodeTable) : State := { s with ct := v }
def State.setLt (s : State) (v : LzTable) : State := { s with lt := v }
def State.setTmp (s : State) (v : Temps) : State := { s with tmp := v }
def State.setRegs (s : State) (v : HostRegs) : State := { s with regs := v }
def State.setSrc (s : State) (v : Memory) : State := { s with src := v }
def State.setDst (s : State) (v : Memory) : State := { s with dst := v }
def State.setDst0 (s : State) (v : Memory) : State := { s with dst0 := v }
def State.setCtl (s : State) (v : Ctl) : State := { s with ctl := v }
def State.setLoc (s : State) (v : Locals) : State := { s with loc := v }
def State.setRes (s : State) (ok : Bool) (v : Int) : State := { s with resOk := ok, res := v }
def State.setHost (s : State) (v : List HostEvent) : State := { s with host := v }
def State.setHostData (s : State) (v : Word) : State := { s with hostData := v }
def State.setDirect (s : State) (v : List Instr) : State := { s with direct := v }
def State.setFresh (s : State) (v : Nat) : State := { s with fresh := v }

/-- R21: the cursor register named. -/
def State.cursor (s : State) : CSel → Cursor
  | .a => s.a
  | .b => s.b

def State.setCursor (s : State) (c : CSel) (v : Cursor) : State :=
  match c with
  | .a => s.setA v
  | .b => s.setB v

/-- R33: a job is running. -/
def State.busy (s : State) : Bool := busyBit s.regs.status

/-- R34: `SRC_LEN` as a number. -/
def State.srcLen (s : State) : Nat := s.regs.srcLen.toNat

/-- R61: the source space as the cursors see it. -/
def State.source (s : State) : Source :=
  { bytes := s.src, len := s.srcLen }

/-- R34: `DST_LEN` as a number. -/
def State.dstLen (s : State) : Nat := s.regs.dstLen.toNat

/-! ### Engine computations -/

/-- How a computation of the engine ends early. -/
inductive Stop
  /-- `raise Fault(class, cause)` of R9: taken as a next state by `takeFault`. -/
  | raise (c : Cause)
  /-- An access to a byte that does not exist. -/
  | fault (f : Fault)
  /-- Outside the model's domain. -/
  | refuse (r : Refusal)
  deriving DecidableEq, Repr

/-- A computation of the engine: it keeps the state it had reached when it stops early, for R341 rolls nothing back. -/
abbrev Eng (α : Type) := EStateM Stop State α

/-- R9: `raise Fault(class, cause)`. -/
def raise {α : Type} (c : Cause) : Eng α := fun s => .error (.raise c) s

def refuse {α : Type} (r : Refusal) : Eng α := fun s => .error (.refuse r) s

def stopFault {α : Type} (f : Fault) : Eng α := fun s => .error (.fault f) s

/-- R9: `require c else Fault(k, e)`. -/
def require (p : Bool) (c : Cause) : Eng Unit := fun s => if p then .ok () s else .error (.raise c) s

/-- The current state. -/
def getState : Eng State := fun s => .ok s s

/-- Change the state. -/
def update (f : State → State) : Eng Unit := fun s => .ok () (f s)

/-- Change the sequencer's local variables. -/
def updateLoc (f : Locals → Locals) : Eng Unit := update fun s => s.setLoc (f s.loc)

/-- Say what the sequencer does next. -/
def goto (c : Ctl) : Eng Unit := update fun s => s.setCtl c

/-- R343, R371: the destination bytes a job wrote before it was cut short are free to be the old ones; `keep` says which it
keeps. -/
def State.freeDst (keep : Nat → Bool) (s : State) : State :=
  if s.busy then s.setDst (Memory.mergeFree keep s.dst0 s.dst) else s

/-- R350: what the running job's end depends on. -/
def State.jobInputs (s : State) : Config.JobInputs :=
  { source := srcValues s.src 0 s.srcLen, dstLen := s.dstLen, destination := dstValues s.dst0 0 s.dstLen }

/-- R341: the fault action, the engine's one form of taking an exception.  STATUS, the phase, SRC_USED and DST_USED are
written, the job is over, and nothing else changes but the destination bytes of R343, the same for every job with the same inputs
(R350).  SRC_USED holds `sp` modulo 2^32 (log entry 9).  There is no return from it (R347): the next job starts at its own
START. -/
def takeFault (c : Cause) (s : State) : State :=
  let t := s.freeDst (Config.keepAfterFault s.jobInputs)
  ((t.setRegs { t.regs with
      status := statusFault c,
      srcUsed := if c = .e47 then 0 else BitVec.ofNat 32 t.sp,
      dstUsed := if c = .e47 then 0 else BitVec.ofNat 32 t.off }).setPhase
    (if c.cls = .earlyStop then .stopped else .faulted)).setCtl .idle

/-- The outcome of a computation: a raised fault is a next state. -/
def settle (m : Eng Unit) (s : State) : Host.Outcome State Fault Refusal :=
  match m s with
  | .ok _ t => .next t
  | .error (.raise c) t => .next (takeFault c t)
  | .error (.fault f) _ => .fault f
  | .error (.refuse r) _ => .refused r

/-! ### Source and destination -/

/-- R61: `SrcByte(i)` for `n` offsets from `i` on. -/
def srcBytes (i n : Nat) : Eng (List Byte) := fun s =>
  if n = 0 ∨ i + n ≤ s.srcLen then .ok (srcValues s.src i n) s else .error (.fault .srcOutside) s

/-- The bits of at most `k` source bytes from offset `p` on, below `e` and below SRC_LEN. -/
def State.sourceBits (s : State) (p e k : Nat) : Bits :=
  bitsOfBytes (srcValues s.src p (min k (min e s.srcLen - p)))

/-- R62: `DstWrite` of bytes at rising offsets from `i` on. -/
def dstWrite (i : Nat) (bs : List Byte) : Eng Unit := fun s =>
  if bs = [] ∨ i + bs.length ≤ s.dstLen then .ok () (s.setDst (Memory.writeList s.dst i bs))
  else .error (.fault .dstOutside) s

/-- R62: `DstRead(i)`. -/
def dstRead (i : Nat) : Eng Byte := fun s =>
  if i < s.dstLen then .ok (dstValue s.dst i) s else .error (.fault .dstOutside) s

/-- R303, R312, R321, R263: copy `n` source bytes from `i` to destination offset `o`. -/
def copySrc (o i n : Nat) : Eng Unit := do
  let bs ← srcBytes i n
  dstWrite o bs

/-! ### Cursor registers -/

/-- Perform an operation on a cursor register.  What the operation wrote before it raised stays (R9, R341). -/
def onCursor {α : Type} (c : CSel) (f : Source → Cursor → Except (Cause × Cursor) (α × Cursor)) : Eng α := fun s =>
  match f s.source (s.cursor c) with
  | .ok (x, v) => .ok x (s.setCursor c v)
  | .error (e, v) => .error (.raise e) (s.setCursor c v)

/-- R123, R124 on a cursor register. -/
def refillCursor (c : CSel) (dir : Dir) (P : Config.Params := params) : Eng Unit :=
  onCursor c fun src v => (v.refillDir dir src P).map fun v => ((), v)

/-- R125 on a cursor register. -/
def readBitsOf (c : CSel) (n : Nat) (P : Config.Params := params) : Eng Word :=
  onCursor c fun _ v => v.readBits n P

/-- The direction a register's reads refill in: A forward, B backward (R273). -/
def selDir : CSel → Dir
  | .a => .fwd
  | .b => .bwd

/-- A bit-level element is read from a cursor: its bits are the next ones there (R80; log entry 13). -/
def atCursor (c : CSel) (i : Instr) (P : Config.Params := params) : Eng Unit := fun s =>
  match encode i P.grammar with
  | some bits =>
    if bits.isPrefixOf ((s.cursor c).upcoming s.source bits.length P) then .ok () s
    else .error (.refuse .notAtCursor) s
  | none => .ok () s

/-- Keep the result of an operation issued on its own. -/
def setResult (ok : Bool) (v : Int) : Eng Unit := update fun s => s.setRes ok v

end Sys2Proof.Machine
end

