-- ==== Sys2Proof/Machine/Codes.lean ====
section
/-! DEFINITION. The variable-length integer codes (spec rules R100 to R105): one meaning per row, each the operation of
spec file 41_bitcursor.md or R274 that reads it, at a cursor that holds its bits. -/

namespace Sys2Proof.Machine

/-- R100, R128. -/
def execGammaCode (c : CSel) (n b : Nat) (s : State) (P : Config.Params := params) :
    Host.Outcome State Fault Refusal :=
  settle (do
    atCursor c (.gammaCode c n b) P
    let v ← onCursor c fun _ v => v.readGamma P
    setResult true v) s

/-- R101, R129, R130. -/
def execDistanceSmall (c : CSel) (cb : Byte) (x : Nat) (s : State) (P : Config.Params := params) :
    Host.Outcome State Fault Refusal :=
  settle (do
    atCursor c (.distanceSmall c cb x) P
    let v ← onCursor c fun src v => v.readDistance (selDir c) src cb P
    setResult true v.toNat) s

/-- R102, R129, R130. -/
def execDistanceLarge (c : CSel) (cb : Byte) (x : Nat) (y : BitVec 12) (s : State)
    (P : Config.Params := params) : Host.Outcome State Fault Refusal :=
  settle (do
    atCursor c (.distanceLarge c cb x y) P
    let v ← onCursor c fun src v => v.readDistance (selDir c) src cb P
    setResult true v.toNat) s

/-- R103, R131, R132; an illegal prefix answers `ok = false` (R284 faults on it). -/
def execLengthCode (c : CSel) (n b : Nat) (s : State) (P : Config.Params := params) :
    Host.Outcome State Fault Refusal :=
  settle (do
    atCursor c (.lengthCode c n b) P
    let v ← onCursor c fun src v => v.readLength (selDir c) src P
    setResult v.1 v.2.toNat) s

/-- R283: the bound of the side count, before the first side value; the side values come next. -/
def sideBound (P : Config.Params := params) : Eng Unit := do
  let s ← getState
  require (decide (s.loc.sideCount ≤ P.sideMax)) .e46
  updateLoc fun l => { l with idx := 0 }
  goto .sideValues

/-- R104, R274: the number of side-buffer entries, from cursor B and before the offsets, which come next. -/
def sideCount (P : Config.Params := params) : Eng Unit := do
  let s ← getState
  let c := P.sideCountCursor
  require (P.sideCountLegal (s.cursor c).window) .e45
  let count ← onCursor c fun src v => v.readSideCount (selDir c) src P
  updateLoc fun l => { l with sideCount := count.toNat, idx := 0 }
  if P.sideCountFirst then goto .offsets else sideBound P

/-- R104, R274. -/
def execSideCountCode (n b : Nat) (s : State) (P : Config.Params := params) :
    Host.Outcome State Fault Refusal :=
  settle (do atCursor P.sideCountCursor (.sideCountCode n b) P; sideCount P) s

/-- R105, R133, R134. -/
def execMoreThan24 (c : CSel) (n b : Nat) (s : State) (P : Config.Params := params) :
    Host.Outcome State Fault Refusal :=
  settle (do
    atCursor c (.moreThan24 c n b) P
    let v ← onCursor c fun src v => v.readMoreThan24 (selDir c) src n P
    setResult true v.toNat) s

end Sys2Proof.Machine
end

