-- ==== Sys2Proof/Machine/Chunks.lean ====
section
/-! DEFINITION. The byte-stream decoder (spec file 44_bytestream.md): one meaning per chunk row, and the delivery of a
chunk's bytes to its caller (R230). -/

namespace Sys2Proof.Machine

/-- R230: `decode_bytes(p, end, cap)` begins, for a caller. -/
def startChunk (p e cap : Nat) (dest : ChunkDest) : Eng Unit := do
  updateLoc fun l => { l with cp := p, cend := e, cap := cap, dest := dest }
  goto .chunk

/-- R230, R243: `decode_bytes` answers `out` and the bytes consumed, and its caller goes on: the entropy-only
sub-chunk (R319) or the step of read_table after the stream (R265 to R271). -/
def deliver (out : List Byte) (n : Nat) (P : Config.Params := params) : Eng Unit := do
  let s ← getState
  let l := s.loc
  match l.dest with
  | .entropy =>
    require (out.length == l.cnt) .e18
    dstWrite l.d out
    updateLoc fun l => { l with p := l.p + P.entropyHeader + n, d := l.d + l.cnt }
    goto .quantumLoop
  | .lit =>
    update fun s => s.setLt { s.lt with lit := out }
    updateLoc fun l => { l with lp := l.lp + n }
    startChunk (l.lp + n) l.q (P.cmdCapacity l.cnt) .cmd
  | .cmd =>
    update fun s => s.setLt { s.lt with cmd := out }
    updateLoc fun l => { l with lp := l.lp + n }
    require (decide (l.lp + n + P.lzMinAfterCommands ≤ l.q)) .e41
    update fun s => s.setLt { s.lt with scaling := 0 }
    goto .lzScaling
  | .offs =>
    update fun s => s.setLt { s.lt with offsPacked := out, extra := none }
    updateLoc fun l => { l with lp := l.lp + n }
    if 2 ≤ s.lt.scaling then startChunk (l.lp + n) l.q out.length .extra
    else startChunk (l.lp + n) l.q (P.lensCapacity l.cnt) .lens
  | .extra =>
    update fun s => s.setLt { s.lt with extra := some out }
    updateLoc fun l => { l with lp := l.lp + n }
    require (out.length == s.lt.offsPacked.length) .e43
    startChunk (l.lp + n) l.q (P.lensCapacity l.cnt) .lens
  | .lens =>
    update fun s => s.setLt { s.lt with lenPacked := out }
    updateLoc fun l => { l with lp := l.lp + n }
    goto .unpackStart

/-- R235: the capacity check, the truncation check, the bytes. -/
def copyChunk (hdr size : Nat) (P : Config.Params := params) : Eng Unit := do
  let s ← getState
  let l := s.loc
  if P.capacityFirst then
    require (decide (size ≤ l.cap)) .e22
    require (decide (l.cp + hdr + size ≤ l.cend)) .e23
  else
    require (decide (l.cp + hdr + size ≤ l.cend)) .e23
    require (decide (size ≤ l.cap)) .e22
  let out ← srcBytes (l.cp + hdr) size
  deliver out (hdr + size) P

/-- R238. -/
def checkPayload (hdr srcSize dstSize : Nat) : Eng Unit := do
  let s ← getState
  let l := s.loc
  require (decide (l.cp + hdr + srcSize ≤ l.cend)) .e23
  require (decide (dstSize ≤ l.cap)) .e25

/-- R121, R122: a cursor over a range of the source.  The pseudocode has no check: a range that is no slice of the source is taken
as it is, and its bytes past the source's end are zeros (log entry 16). -/
def initCursor (c : CSel) (dir : Dir) (lo hi : Nat) (P : Config.Params := params) : Eng Unit := update fun s =>
  match dir with
  | .fwd => s.setCursor c (Cursor.initFwd s.source lo hi P)
  | .bwd => s.setCursor c (Cursor.initBwd s.source lo hi P)

/-- R191, R192, R239: a Huffman chunk: the payload checks, the cursor, the empty code table; the selector comes next.  Types 2 and 4
do not differ here (R215). -/
def huffChunk (type hdr srcSize dstSize : Nat) (P : Config.Params := params) : Eng Unit := do
  checkPayload hdr srcSize dstSize
  let s ← getState
  let p := s.loc.cp + hdr
  initCursor .a .fwd (p + P.huffSkip type) (p + srcSize) P
  let first := if P.freshPrefixes then P.codePrefixInit else s.ct.codePrefix
  update fun s => s.setCt { syms := [], codePrefix := first }
  updateLoc fun l => { l with hdr := hdr, srcSize := srcSize, dstSize := dstSize, ctype := type }
  goto .selector

/-- R241: a legal chunk type that the engine does not decode. -/
def unsupportedChunk (hdr srcSize dstSize : Nat) : Eng Unit := do
  checkPayload hdr srcSize dstSize
  raise .e27

/-- R237: the check of the long layout. -/
def longSizes (srcSize dstSize : Nat) (P : Config.Params := params) : Eng Unit :=
  require (P.longSizesOk srcSize dstSize) .e24

/-- R233, R235. -/
def execChunkCopyShort (size : BitVec 12) (s : State) (P : Config.Params := params) : Host.Outcome State Fault Refusal :=
  settle (copyChunk 2 size.toNat P) s

/-- R234, R235. -/
def execChunkCopyLong (size : BitVec 18) (s : State) (P : Config.Params := params) : Host.Outcome State Fault Refusal :=
  settle (copyChunk 3 size.toNat P) s

/-- R234: reserved bits set. -/
def execChunkCopyLongBad (s : State) : Host.Outcome State Fault Refusal :=
  settle (raise .e21) s

/-- R236, R238, R241: type 1, short layout. -/
def execChunkTansShort (d sz : BitVec 10) (s : State) (P : Config.Params := params) :
    Host.Outcome State Fault Refusal :=
  settle (unsupportedChunk 3 sz.toNat (P.shortDstSize d sz)) s

/-- R237, R238, R241: type 1, long layout. -/
def execChunkTansLong (d sz : BitVec 18) (s : State) (P : Config.Params := params) :
    Host.Outcome State Fault Refusal :=
  settle (do longSizes sz.toNat (P.longDstSize d) P; unsupportedChunk 5 sz.toNat (P.longDstSize d)) s

/-- R236, R239: type 2, short layout. -/
def execChunkHuff2Short (d sz : BitVec 10) (s : State) (P : Config.Params := params) :
    Host.Outcome State Fault Refusal :=
  settle (huffChunk 2 3 sz.toNat (P.shortDstSize d sz) P) s

/-- R237, R239: type 2, long layout. -/
def execChunkHuff2Long (d sz : BitVec 18) (s : State) (P : Config.Params := params) :
    Host.Outcome State Fault Refusal :=
  settle (do longSizes sz.toNat (P.longDstSize d) P; huffChunk 2 5 sz.toNat (P.longDstSize d) P) s

/-- R236, R238, R241: type 3, short layout. -/
def execChunkRleShort (d sz : BitVec 10) (s : State) (P : Config.Params := params) :
    Host.Outcome State Fault Refusal :=
  settle (unsupportedChunk 3 sz.toNat (P.shortDstSize d sz)) s

/-- R237, R238, R241: type 3, long layout. -/
def execChunkRleLong (d sz : BitVec 18) (s : State) (P : Config.Params := params) :
    Host.Outcome State Fault Refusal :=
  settle (do longSizes sz.toNat (P.longDstSize d) P; unsupportedChunk 5 sz.toNat (P.longDstSize d)) s

/-- R236, R239: type 4, short layout. -/
def execChunkHuff4Short (d sz : BitVec 10) (s : State) (P : Config.Params := params) :
    Host.Outcome State Fault Refusal :=
  settle (huffChunk 4 3 sz.toNat (P.shortDstSize d sz) P) s

/-- R237, R239: type 4, long layout. -/
def execChunkHuff4Long (d sz : BitVec 18) (s : State) (P : Config.Params := params) :
    Host.Outcome State Fault Refusal :=
  settle (do longSizes sz.toNat (P.longDstSize d) P; huffChunk 4 5 sz.toNat (P.longDstSize d) P) s

/-- R236, R238, R241: type 5, short layout. -/
def execChunkRecursiveShort (d sz : BitVec 10) (s : State) (P : Config.Params := params) :
    Host.Outcome State Fault Refusal :=
  settle (unsupportedChunk 3 sz.toNat (P.shortDstSize d sz)) s

/-- R237, R238, R241: type 5, long layout. -/
def execChunkRecursiveLong (d sz : BitVec 18) (s : State) (P : Config.Params := params) :
    Host.Outcome State Fault Refusal :=
  settle (do longSizes sz.toNat (P.longDstSize d) P; unsupportedChunk 5 sz.toNat (P.longDstSize d)) s

/-- R240. -/
def execChunkType6 (s : State) : Host.Outcome State Fault Refusal :=
  settle (raise .e26) s

/-- R240. -/
def execChunkType7 (s : State) : Host.Outcome State Fault Refusal :=
  settle (raise .e26) s

end Sys2Proof.Machine
end

