-- ==== Sys2Proof/Machine/CursorOps.lean ====
section
/-! DEFINITION. The bit-cursor operations issued on their own (spec rules R121 to R135): one meaning per row, each on the
cursor register named, the result kept in `res` (and `resOk` for `read_length`). -/

namespace Sys2Proof.Machine

/-- R121. -/
def execCursorInitFwd (c : CSel) (lo hi : Nat) (s : State) (P : Config.Params := params) :
    Host.Outcome State Fault Refusal :=
  settle (initCursor c .fwd lo hi P) s

/-- R122. -/
def execCursorInitBwd (c : CSel) (lo hi : Nat) (s : State) (P : Config.Params := params) :
    Host.Outcome State Fault Refusal :=
  settle (initCursor c .bwd lo hi P) s

/-- R123. -/
def execRefill (c : CSel) (s : State) (P : Config.Params := params) :
    Host.Outcome State Fault Refusal :=
  settle (refillCursor c .fwd P) s

/-- R124. -/
def execRefillBackwards (c : CSel) (s : State) (P : Config.Params := params) :
    Host.Outcome State Fault Refusal :=
  settle (refillCursor c .bwd P) s

/-- R125. -/
def execReadBits (c : CSel) (n : Nat) (s : State) (P : Config.Params := params) :
    Host.Outcome State Fault Refusal :=
  settle (do let v ← readBitsOf c n P; setResult true v.toNat) s

/-- R126. -/
def execReadBitsZero (c : CSel) (n : Nat) (s : State) (P : Config.Params := params) :
    Host.Outcome State Fault Refusal :=
  settle (do let v ← onCursor c (fun _ v => v.readBitsZero n P); setResult true v.toNat) s

/-- R127. -/
def execReadBit (c : CSel) (s : State) (P : Config.Params := params) :
    Host.Outcome State Fault Refusal :=
  settle (do let v ← onCursor c (fun src v => v.readBit src P); setResult true v.toNat) s

/-- R127. -/
def execReadBitNorefill (c : CSel) (s : State) (P : Config.Params := params) :
    Host.Outcome State Fault Refusal :=
  settle (do let v ← onCursor c (fun src v => v.readBitNorefill src P); setResult true v.toNat) s

/-- R128. -/
def execReadGamma (c : CSel) (s : State) (P : Config.Params := params) :
    Host.Outcome State Fault Refusal :=
  settle (do let v ← onCursor c (fun _ v => v.readGamma P); setResult true v) s

/-- R129. -/
def execReadDistance (c : CSel) (cb : Byte) (s : State) (P : Config.Params := params) :
    Host.Outcome State Fault Refusal :=
  settle (do let v ← onCursor c (fun src v => v.readDistance .fwd src cb P); setResult true v.toNat) s

/-- R130. -/
def execReadDistanceB (c : CSel) (cb : Byte) (s : State) (P : Config.Params := params) :
    Host.Outcome State Fault Refusal :=
  settle (do let v ← onCursor c (fun src v => v.readDistance .bwd src cb P); setResult true v.toNat) s

/-- R131. -/
def execReadLength (c : CSel) (s : State) (P : Config.Params := params) :
    Host.Outcome State Fault Refusal :=
  settle (do let v ← onCursor c (fun src v => v.readLength .fwd src P); setResult v.1 v.2.toNat) s

/-- R132. -/
def execReadLengthB (c : CSel) (s : State) (P : Config.Params := params) :
    Host.Outcome State Fault Refusal :=
  settle (do let v ← onCursor c (fun src v => v.readLength .bwd src P); setResult v.1 v.2.toNat) s

/-- R133. -/
def execReadMoreThan24Bits (c : CSel) (n : Nat) (s : State) (P : Config.Params := params) :
    Host.Outcome State Fault Refusal :=
  settle (do let v ← onCursor c (fun src v => v.readMoreThan24 .fwd src n P); setResult true v.toNat) s

/-- R134. -/
def execReadMoreThan24BitsB (c : CSel) (n : Nat) (s : State) (P : Config.Params := params) :
    Host.Outcome State Fault Refusal :=
  settle (do let v ← onCursor c (fun src v => v.readMoreThan24 .bwd src n P); setResult true v.toNat) s

/-- R135: the cursor is unchanged. -/
def execConsumedPos (c : CSel) (s : State) (P : Config.Params := params) :
    Host.Outcome State Fault Refusal :=
  settle (setResult true ((s.cursor c).consumedPos P)) s

end Sys2Proof.Machine
end

