-- ==== Sys2Proof/Machine/Entropy.lean ====
section
/-! DEFINITION. The entropy decoder's code-length readers (spec file 43_entropy.md): one meaning per selector, sparse and
gamma row, and the end of a code-length read (R203, R210, R215). -/

namespace Sys2Proof.Machine

/-- R193: `insert(s, len)`. -/
def insertSymbol (sym : Byte) (len : Nat) : Eng Unit := do
  let s ← getState
  let at_ := s.ct.codePrefix[len]?.getD 0
  if at_.toNat < symsSize then
    update fun s => s.setCt
      { syms := Memory.write s.ct.syms at_.toNat sym, codePrefix := s.ct.codePrefix.setIfInBounds len (at_ + 1) }
  else stopFault .symsOutside

/-- R191: the two selector bits, read without a refill. -/
def readSelector (i : Instr) (P : Config.Params := params) : Eng Unit := do
  atCursor .a i P
  let _ ← onCursor .a fun src c => c.readBitNorefill src P
  let _ ← onCursor .a fun src c => c.readBitNorefill src P

/-- R191: selector `01`. -/
def execEntropySelGamma (s : State) (P : Config.Params := params) :
    Host.Outcome State Fault Refusal :=
  settle (do readSelector .entropySelGamma P; goto .gammaHeader) s

/-- R191: selector `00`. -/
def execEntropySelSparse (s : State) (P : Config.Params := params) :
    Host.Outcome State Fault Refusal :=
  settle (do readSelector .entropySelSparse P; goto .sparse) s

/-- R205: the insertions of a supplied reader, lengths in [1, 11]. -/
def insertAll : List (Byte × Nat) → Eng Unit
  | [] => pure ()
  | (sym, len) :: rest => do
    if 1 ≤ len ∧ len ≤ 11 then
      insertSymbol sym len
      insertAll rest
    else refuse .openContract

/-- R205: a supplied reader has read so many more bits, forward.  The rule says only that the cursor is left after its last bit; here
each bit is read after a refill (log entry 36). -/
def skipBits (n : Nat) (P : Config.Params := params) : Eng Unit :=
  match n with
  | 0 => pure ()
  | n + 1 => do
    let _ ← onCursor .a fun src c => c.readBit src P
    skipBits n P

/-- R204 to R206, for a reader that may be supplied: E56 without one.  The two fields are read first; the reader then
inserts, consumes bits and ends; a count of 0 must fail and a success must have 1 symbol or more.  The forced-bits field is kept in
the temporary `forced_bits` (log entry 30). -/
def golombRice (reader : Option (Config.GolombRiceArgs → Config.GolombRiceAnswer))
    (P : Config.Params := params) : Eng Unit := do
  match reader with
  | none => raise .e56
  | some f =>
    let s ← getState
    let answer := f { cursor := s.a, bytes := srcValues s.src s.a.lo (s.a.hi - s.a.lo), table := s.ct,
                      bits2Value := Config.bits2Value, bits2Length := Config.bits2Length }
    let forced ← readBitsOf .a 2 P
    update fun s => s.setTmp { s.tmp with forcedBits := forced.setWidth 2 }
    let count ← readBitsOf .a 8 P
    insertAll answer.inserts
    skipBits answer.bits P
    match answer.result with
    | .fail => raise .e38
    | .misuse => raise .e54
    | .symbols num =>
      if count = 0 ∨ num = 0 then refuse .openContract
      else
        updateLoc fun l => { l with num := num }
        goto .codesDone

/-- R191, R204, R205: selector `10`. -/
def execEntropySelGolombRice (s : State) (P : Config.Params := params) :
    Host.Outcome State Fault Refusal :=
  settle (do readSelector .entropySelGolombRice P; golombRice Config.golombRiceReader P) s

/-- R191: selector `11`. -/
def execEntropySelBad (s : State) (P : Config.Params := params) :
    Host.Outcome State Fault Refusal :=
  settle (do readSelector .entropySelBad P; raise .e29) s

/-! ### Sparse path -/

/-- R202: the symbols and lengths. -/
def sparseLoop (w n : Nat) (P : Config.Params := params) : Eng Unit :=
  match n with
  | 0 => pure ()
  | n + 1 => do
    refillCursor .a .fwd P
    let sym ← readBitsOf .a 8 P
    let field ← onCursor .a fun _ c => c.readBitsZero w P
    let len := P.sparseLength field.toNat
    require (decide (len ≤ 11)) .e37
    insertSymbol (sym.setWidth 8) len
    sparseLoop w n P

/-- R200 to R202. -/
def sparsePath (P : Config.Params := params) : Eng Unit := do
  let count ← readBitsOf .a 8 P
  require (count != 0) .e35
  if count = 1 then
    let sym ← readBitsOf .a 8 P
    update fun s => s.setCt { s.ct with syms := Memory.write s.ct.syms 0 (sym.setWidth 8) }
    updateLoc fun l => { l with num := 1 }
  else
    let w ← readBitsOf .a P.sparseWidthBits P
    require (decide (w.toNat ≤ 4)) .e36
    sparseLoop w.toNat count.toNat P
    updateLoc fun l => { l with num := count.toNat }
  goto .codesDone

/-- R200: count 0. -/
def execSparseZero (s : State) (P : Config.Params := params) :
    Host.Outcome State Fault Refusal :=
  settle (do atCursor .a .sparseZero P; sparsePath P) s

/-- R201: one symbol. -/
def execSparseOne (sym : Byte) (s : State) (P : Config.Params := params) :
    Host.Outcome State Fault Refusal :=
  settle (do atCursor .a (.sparseOne sym) P; sparsePath P) s

/-- R202: several symbols. -/
def execSparseMany (c : Byte) (w : BitVec 3) (pairs : List (Byte × BitVec 4)) (s : State)
    (P : Config.Params := params) : Host.Outcome State Fault Refusal :=
  settle (do atCursor .a (.sparseMany c w pairs) P; sparsePath P) s

/-! ### Gamma path -/

/-- R199: what the sequencer does for a piece of the gamma path. -/
def gammaCtl : Config.GammaPiece → Ctl
  | .zeroRun => .gammaZero
  | .runCount => .gammaRun
  | .oneLength => .gammaResidual
  | .finish => .gammaFinish

/-- R194. -/
def gammaStart (P : Config.Params := params) : Eng Unit := do
  let f ← readBitsOf .a P.forcedBitsWidth P
  update fun s => s.setTmp { avgBitsX4 := avgBitsInit, sym := 0, numSymbols := 0, forcedBits := f.setWidth 2 }
  let skip ← onCursor .a fun src c => c.readBit src P
  goto (gammaCtl (P.gammaAfterHeader skip))

/-- R194. -/
def execGammaHeader (f : BitVec 2) (k : Bool) (s : State) (P : Config.Params := params) :
    Host.Outcome State Fault Refusal :=
  settle (do atCursor .a (.gammaHeader f k) P; gammaStart P) s

/-- R195, R196: the guard before a gamma code: the top byte of the window is not 0. -/
def gammaGuard (P : Config.Params := params) : Eng Unit := do
  let s ← getState
  require (s.a.window &&& P.gammaGuard != 0) .e30

/-- R195. -/
def zeroRun (P : Config.Params := params) : Eng Unit := do
  gammaGuard P
  let z ← onCursor .a fun _ c => c.readGamma P
  update fun s => s.setTmp { s.tmp with sym := s.tmp.sym + P.zeroRunLength z }
  let s ← getState
  goto (gammaCtl (P.gammaAfterZeroRun s.tmp.sym))

/-- R195. -/
def execGammaZeroRun (n b : Nat) (s : State) (P : Config.Params := params) :
    Host.Outcome State Fault Refusal :=
  settle (do atCursor .a (.gammaZeroRun n b) P; zeroRun P) s

/-- R196. -/
def runCount (P : Config.Params := params) : Eng Unit := do
  refillCursor .a .fwd P
  gammaGuard P
  let r ← onCursor .a fun _ c => c.readGamma P
  let n := P.runLength r
  let s ← getState
  require (decide (s.tmp.sym + n ≤ 256)) .e31
  refillCursor .a .fwd P
  update fun s => s.setTmp { s.tmp with numSymbols := s.tmp.numSymbols + n }
  updateLoc fun l => { l with runLeft := n }
  goto (gammaCtl P.gammaAfterCount)

/-- R196. -/
def execGammaRunCount (n b : Nat) (s : State) (P : Config.Params := params) :
    Host.Outcome State Fault Refusal :=
  settle (do atCursor .a (.gammaRunCount n b) P; runCount P) s

/-- R198: `codelen + ((3 * avg_bits_x4 + 2) >> 2)`, rounded down on a negative number too (log entry 35). -/
def nextAverage (avg codelen : Int) : Int :=
  codelen + (3 * avg + 2) / 4

/-- R197, R198, and the loop of R199. -/
def residual (P : Config.Params := params) : Eng Unit := do
  let s ← getState
  let f := s.tmp.forcedBits.toNat
  require (decide (P.gammaThreshold f ≤ s.a.window.toNat)) .e32
  let lz := P.leadingZeros s.a.window
  let r ← readBitsOf .a (P.residualWidth lz f) P
  let v := P.residualValue lz f r.toNat
  let codelen := P.zigzag v + P.prediction s.tmp.avgBitsX4
  require (decide (1 ≤ codelen) && decide (codelen ≤ 11)) .e33
  update fun s => s.setTmp { s.tmp with avgBitsX4 := nextAverage s.tmp.avgBitsX4 codelen }
  refillCursor .a .fwd P
  insertSymbol (BitVec.ofNat 8 s.tmp.sym) codelen.toNat
  update fun s => s.setTmp { s.tmp with sym := s.tmp.sym + 1 }
  updateLoc fun l => { l with runLeft := l.runLeft - 1 }
  let s ← getState
  goto (gammaCtl (P.gammaAfterLength s.loc.runLeft s.tmp.sym))

/-- R197, R198: the residual's field has the `F` bits in force. -/
def execGammaResidual (f : BitVec 2) (q b : Nat) (s : State) (P : Config.Params := params) :
    Host.Outcome State Fault Refusal :=
  if f = s.tmp.forcedBits then settle (do atCursor .a (.gammaResidual f q b) P; residual P) s
  else .refused .notAtCursor

/-- R199: `finish`. -/
def gammaFinish : Eng Unit := do
  let s ← getState
  require (s.tmp.sym == 256 && decide (2 ≤ s.tmp.numSymbols)) .e34
  updateLoc fun l => { l with num := s.tmp.numSymbols }
  goto .codesDone

/-! ### The end of a code-length read -/

/-- R210, R201: one symbol fills the output; the entry must hold a value (R27). -/
def oneSymbol (P : Config.Params := params) : Eng Unit := do
  let s ← getState
  match Memory.read s.ct.syms 0 with
  | none => refuse .unwrittenSymbol
  | some b => deliver (P.oneSymbolOutput s.loc.dstSize b) (s.loc.hdr + P.oneSymbolConsumed s.loc.srcSize) P

/-- R193, R208: how many symbols of a code length have been inserted. -/
def CodeTable.inserted (t : CodeTable) (len : Nat) (P : Config.Params := params) : Nat :=
  (t.codePrefix[len]?.getD 0).toNat - (P.codePrefixInit[len]?.getD 0).toNat

/-- R208: the symbols of a code length, in the order of their insertion. -/
def CodeTable.bucket (t : CodeTable) (len : Nat) (P : Config.Params := params) : List (Option Byte) :=
  (List.range (t.inserted len P)).map fun i => Memory.read t.syms ((P.codePrefixInit[len]?.getD 0).toNat + i)

/-- The code lengths (R193). -/
def codeLengths : List Nat := [1, 2, 3, 4, 5, 6, 7, 8, 9, 10, 11]

/-- R215, R202: the table is a complete prefix code: the codes of its lengths fill the code space exactly, and no symbol has two
(log entry 31). -/
def CodeTable.isComplete (t : CodeTable) (P : Config.Params := params) : Bool :=
  (codeLengths.map fun len => t.inserted len P * 2 ^ (11 - len)).sum == 2048 &&
    decide (codeLengths.flatMap fun len => t.bucket len P).Nodup

/-- R215, for a decoder that may be supplied: E57 without one, E39 where it fails; then the check of R242.  A decoder that decodes
with a table that is not a complete prefix code breaks its contract. -/
def huffSymbols (decoder : Option (Config.HuffArgs → Config.HuffAnswer)) (P : Config.Params := params) : Eng Unit := do
  let s ← getState
  let l := s.loc
  let p := l.cp + l.hdr
  let q := P.codesEnd s.a (s.a.consumedPos P)
  match decoder with
  | none => raise .e57
  | some f =>
    match f { type := l.ctype, table := s.ct, num := l.num, consumed := q - p,
              bytes := srcValues s.src q.toNat (p + l.srcSize - q.toNat), dstSize := l.dstSize } with
    | .fail => raise .e39
    | .misuse => raise .e54
    | .decoded out n =>
      if s.ct.isComplete P ∧ out.length = l.dstSize then
        require (n == l.srcSize) .e28
        deliver out (l.hdr + l.srcSize) P
      else refuse .openContract

/-- R191: after any path. -/
def codesDone (decoder : Option (Config.HuffArgs → Config.HuffAnswer)) (P : Config.Params := params) : Eng Unit := do
  let s ← getState
  if s.loc.num = 1 then oneSymbol P else huffSymbols decoder P

end Sys2Proof.Machine
end

