-- ==== Sys2Proof/Machine/Headers.lean ====
section
/-! DEFINITION. The header codec (spec file 42_headers.md): one meaning per stream-header and block-header row. -/

namespace Sys2Proof.Machine

/-- R161: a legal stream header is written to SH and SAVED_HDR and its 2 bytes are passed. -/
def acceptStreamHeader (h : StreamHeader) : Eng Unit := do
  update fun s => (s.setSh h).setRegs { s.regs with savedHdr := savedHdrOf h }
  updateLoc fun l => { l with s := l.s + 2 }
  goto .blockEntry

/-- R161, family code 5. -/
def execStreamHeaderLzna (r u c : Bool) (s : State) : Host.Outcome State Fault Refusal :=
  settle (acceptStreamHeader { family := .lzna, restart := r, uncompressed := u, useChecksums := c }) s

/-- R161, family code 6. -/
def execStreamHeaderKraken (r u c : Bool) (s : State) : Host.Outcome State Fault Refusal :=
  settle (acceptStreamHeader { family := .kraken, restart := r, uncompressed := u, useChecksums := c }) s

/-- R161, family code 10. -/
def execStreamHeaderMermaid (r u c : Bool) (s : State) : Host.Outcome State Fault Refusal :=
  settle (acceptStreamHeader { family := .mermaid, restart := r, uncompressed := u, useChecksums := c }) s

/-- R161, family code 11. -/
def execStreamHeaderBitknit (r u c : Bool) (s : State) : Host.Outcome State Fault Refusal :=
  settle (acceptStreamHeader { family := .bitknit, restart := r, uncompressed := u, useChecksums := c }) s

/-- R161, family code 12. -/
def execStreamHeaderLeviathan (r u c : Bool) (s : State) : Host.Outcome State Fault Refusal :=
  settle (acceptStreamHeader { family := .leviathan, restart := r, uncompressed := u, useChecksums := c }) s

/-- R161, R106: magic other than `0xC`. -/
def execStreamHeaderBadMagic (s : State) : Host.Outcome State Fault Refusal :=
  settle (raise .e01) s

/-- R161, R106: reserved bits not 0. -/
def execStreamHeaderBadReserved (s : State) : Host.Outcome State Fault Refusal :=
  settle (raise .e02) s

/-- R161, R106: no such family. -/
def execStreamHeaderBadFamily (s : State) : Host.Outcome State Fault Refusal :=
  settle (raise .e03) s

/-- R163: fewer than 2 source bytes. -/
def execStreamHeaderTruncated (s : State) : Host.Outcome State Fault Refusal :=
  settle (raise .e04) s

/-- R164, R301: a block header is written to BH and the `n` bytes it took are passed. -/
def acceptBlockHeader (bh : BlockHeader) (n : Nat) : Eng Unit := do
  update fun s => s.setBh bh
  updateLoc fun l => { l with s := l.s + n }
  goto .blockBody

/-- R165, R170: the BH of a normal header of the payload size given, the checksum 0 where there is none. -/
def codedHeader (size : Nat) (flag2 flag1 : Bool) (checksum : Word) : BlockHeader :=
  { compressedSize := BitVec.ofNat 32 size, checksum := checksum, flag1 := flag1, flag2 := flag2,
    wholeMatchDistance := 0, kind := .coded }

/-- R167, R172: the BH of a fill header; the flags are not written (log entry 21). -/
def fillHeader (bh : BlockHeader) (distance checksum : Word) : BlockHeader :=
  { bh with compressedSize := 0, wholeMatchDistance := distance, checksum := checksum, kind := .fill }

/-- R165, without checksums: 3 bytes. -/
def execKrakenBhNormal (flag2 flag1 : Bool) (size : BitVec 18) (s : State) (P : Config.Params := params) :
    Host.Outcome State Fault Refusal :=
  settle (acceptBlockHeader (codedHeader (P.krakenSize size.toNat) flag2 flag1 0) 3) s

/-- R165, with checksums: 6 bytes. -/
def execKrakenBhNormalCk (flag2 flag1 : Bool) (size : BitVec 18) (ck : BitVec 24) (s : State)
    (P : Config.Params := params) :
    Host.Outcome State Fault Refusal :=
  settle (acceptBlockHeader (codedHeader (P.krakenSize size.toNat) flag2 flag1 (ck.setWidth 32)) 6) s

/-- R167: 4 bytes, the distance 0. -/
def execKrakenBhFill (k : Byte) (s : State) (P : Config.Params := params) : Host.Outcome State Fault Refusal :=
  settle (acceptBlockHeader (fillHeader s.bh P.krakenFillDistance (k.setWidth 32)) P.krakenFillBytes) s

/-- R168. -/
def execKrakenBhBadSentinel (s : State) : Host.Outcome State Fault Refusal :=
  settle (raise .e05) s

/-- R165: the first word of a Kraken-family header cut short: a normal header's BH is written, with the checksum 0, before its
checksum bytes are asked for; a fill's is not, before its byte is there (log entry 27). -/
def beginKraken (P : Config.Params := params) : Eng Unit := do
  let s ← getState
  let ctx : Ctx := .krakenBh false
  match decode ctx (s.sourceBits s.loc.s s.srcLen (P.grammar.headerBytes ctx)) P.grammar with
  | .ok (.krakenBhNormal _ flag2 flag1 size) =>
    update fun s => s.setBh (codedHeader (P.krakenSize size.toNat) flag2 flag1 0)
  | _ => pure ()

/-- R170, read as R165's pseudocode (log entry 27): the first word of an LZNA-family header cut short. -/
def beginLzna (P : Config.Params := params) : Eng Unit := do
  let s ← getState
  let ctx : Ctx := .lznaBh false
  match decode ctx (s.sourceBits s.loc.s s.srcLen (P.grammar.headerBytes ctx)) P.grammar with
  | .ok (.lznaBhNormal flag2 flag1 size) =>
    update fun s => s.setBh (codedHeader (P.lznaSize size.toNat) flag2 flag1 0)
  | _ => pure ()

/-- R173: E07; what R165 wrote by then stays (R341). -/
def execKrakenBhTruncated (s : State) (P : Config.Params := params) : Host.Outcome State Fault Refusal :=
  settle (do beginKraken P; raise .e07) s

/-- R170, without checksums: 2 bytes. -/
def execLznaBhNormal (flag2 flag1 : Bool) (size : BitVec 14) (s : State) (P : Config.Params := params) :
    Host.Outcome State Fault Refusal :=
  settle (acceptBlockHeader (codedHeader (P.lznaSize size.toNat) flag2 flag1 0) 2) s

/-- R170, with checksums: 5 bytes. -/
def execLznaBhNormalCk (flag2 flag1 : Bool) (size : BitVec 14) (ck : BitVec 24) (s : State)
    (P : Config.Params := params) :
    Host.Outcome State Fault Refusal :=
  settle (acceptBlockHeader (codedHeader (P.lznaSize size.toNat) flag2 flag1 (ck.setWidth 32)) 5) s

/-- R172, `ctl = 0`, for a codec that may be supplied: E12 without one, E55 where it fails, E07 where the header bytes it consumed
run past the source (R173; log entry 18), else the distance it gives. -/
def wholeMatchHeader (codec : Option (List Byte → Config.WholeMatchAnswer)) : Eng Unit := do
  let s ← getState
  match codec with
  | none => raise .e12
  | some f =>
    match f (srcValues s.src s.loc.s (s.srcLen - s.loc.s)) with
    | .fail => raise .e55
    | .distance dist _ n =>
      require (decide (s.loc.s + n ≤ s.srcLen)) .e07
      acceptBlockHeader (fillHeader s.bh dist 0) n

/-- R172, `ctl = 0`. -/
def execLznaBhWholeMatch (s : State) : Host.Outcome State Fault Refusal :=
  settle (wholeMatchHeader Config.lznaWholeMatchCodec) s

/-- R172, `ctl = 1`: 3 bytes. -/
def execLznaBhMemset (k : Byte) (s : State) : Host.Outcome State Fault Refusal :=
  settle (acceptBlockHeader (fillHeader s.bh 0 (k.setWidth 32)) 3) s

/-- R172, `ctl = 2`: 2 bytes; the payload is the block's own size. -/
def execLznaBhRaw (s : State) : Host.Outcome State Fault Refusal :=
  settle (acceptBlockHeader
    { s.bh with compressedSize := BitVec.ofNat 32 s.loc.bs, wholeMatchDistance := 0, checksum := 0, kind := .raw } 2) s

/-- R172, `ctl = 3`. -/
def execLznaBhBad (s : State) : Host.Outcome State Fault Refusal :=
  settle (raise .e06) s

end Sys2Proof.Machine
end

