-- ==== Sys2Proof/Machine/HostCommands.lean ====
section
/-! DEFINITION. The host commands (spec rules R32, R36, R300, R370, R371, R378): one meaning per CTRL row, and the end of a
job with success (R315, R316). -/

namespace Sys2Proof.Machine

/-- R36: `FORGET_STREAM` clears VALID. -/
def State.forgetStream (s : State) : State :=
  s.setRegs { s.regs with savedHdr := clearValid s.regs.savedHdr }

/-- R315, R316, R35: success.  SRC_USED holds `sp` modulo 2^32 (log entry 9: in a run `sp` does not pass SRC_LEN). -/
def State.finishJob (s : State) : State :=
  ((s.setRegs { s.regs with
      status := statusDone, srcUsed := BitVec.ofNat 32 s.sp, dstUsed := s.regs.dstLen }).setPhase .finished).setCtl .idle

/-- R370: the working records after a reset are unspecified; R21: a job creates them fresh (log entry 15). -/
def State.freeWork (s : State) : State :=
  let n := s.fresh
  (((((((s.setSh (Config.freeStreamHeader n)).setBh (Config.freeBlockHeader n)).setA (Config.freeCursorA n)).setB
    (Config.freeCursorB n)).setCt { syms := [], codePrefix := Config.freeCodePrefix n }).setLt
    (Config.freeLzTable n)).setTmp (Config.freeTemps n)).setFresh (n + 1)

/-- R300: START, given the limit of R34.  R21: the working records are created fresh.  SRC_USED and DST_USED stay until the job ends
(log entry 26).  A START without the boot set-up of R373 runs all the same, with the lengths and bytes that stand there (log entry
34). -/
def startJob (limit : Nat) : Eng Unit := do
  let s ← getState
  update fun s => s.setDst0 s.dst
  require (decide (s.dstLen ≤ limit)) .e47
  update fun s => (s.freeWork.setRegs { s.regs with status := statusBusy }).setPos 0 0
  if s.dstLen = 0 then update State.finishJob
  else
    update fun s => s.setPhase .expectStreamHeader
    goto .blockStart

/-- R32, R300, R378: START, with FORGET_STREAM before it when `f` is set; ignored while BUSY. -/
def execCtrlStart (f : Bool) (s : State) : Host.Outcome State Fault Refusal :=
  if s.busy then .next s
  else settle (startJob Config.maxDstLen) (if f then s.forgetStream else s)

/-- R32, R36, R378: FORGET_STREAM; ignored while BUSY. -/
def execCtrlForgetStream (s : State) : Host.Outcome State Fault Refusal :=
  if s.busy then .next s else .next s.forgetStream

/-- R370, R371: the reset action; a job that runs is over, its destination bytes as R343 says.  The source bytes, and with no job
running the destination bytes, stay as they are (log entry 29). -/
def State.softReset (s : State) : State :=
  let t := (s.freeDst (Config.keepAfterReset s.fresh)).freeWork
  (((t.setRegs { status := 0, srcLen := 0, dstLen := 0, srcUsed := 0, dstUsed := 0,
                 savedHdr := clearValid t.regs.savedHdr }).setPhase .idle).setPos 0 0).setCtl .idle

/-- R32, R370, R371: SOFT_RESET, at any time. -/
def execCtrlSoftReset (s : State) : Host.Outcome State Fault Refusal :=
  .next s.softReset

end Sys2Proof.Machine
end

