-- ==== Sys2Proof/Machine/LzBytes.lean ====
section
/-! DEFINITION. The LZ table's bytes (spec rules R95 to R99, R264, R268, R275, R276, R286): one meaning per row. -/

namespace Sys2Proof.Machine

/-- R264, R265: the flag byte is not consumed; the literal chunk begins at it. -/
def execLzFlagOk (s : State) (P : Config.Params := params) :
    Host.Outcome State Fault Refusal :=
  settle (do
    let lp := s.loc.lp + P.flagConsumed
    updateLoc fun l => { l with lp := lp }
    startChunk lp s.loc.q (P.litCapacity s.loc.cnt) .lit) s

/-- R264. -/
def execLzFlagBad (s : State) : Host.Outcome State Fault Refusal :=
  settle (raise .e42) s

/-- R268, R269: the selector is consumed. -/
def execLzScalingPresent (sel : BitVec 7) (s : State) (P : Config.Params := params) :
    Host.Outcome State Fault Refusal :=
  settle (do
    update fun s => s.setLt { s.lt with scaling := scalingOf sel }
    updateLoc fun l => { l with lp := l.lp + 1 }
    startChunk (s.loc.lp + 1) s.loc.q (P.offsCapacity s.lt.cmd.length) .offs) s

/-- R268, R269: no selector; nothing is consumed. -/
def execLzScalingAbsent (s : State) (P : Config.Params := params) :
    Host.Outcome State Fault Refusal :=
  settle (do
    update fun s => s.setLt { s.lt with scaling := 0 }
    startChunk s.loc.lp s.loc.q (P.offsCapacity s.lt.cmd.length) .offs) s

/-- R275, R276: offset `i` is stored and the next index is taken. -/
def pushOffset (v : Word) : Eng Unit := do
  update fun s => s.setLt { s.lt with offs := s.lt.offs ++ [v] }
  updateLoc fun l => { l with idx := l.idx + 1 }

/-- R275: a traditional offset: the distance negated modulo 2^32. -/
def tradOffset (cb : Byte) (P : Config.Params := params) : Eng Unit := do
  let s ← getState
  let c := selOf s.loc.idx
  let v ← onCursor c fun src v => v.readDistance (selDir c) src cb P
  pushOffset (P.offsetOf v)

/-- R97, R275: `cb < 0xF0`. -/
def execLzOffsetTradSmall (h l : BitVec 4) (s : State) (P : Config.Params := params) :
    Host.Outcome State Fault Refusal :=
  settle (tradOffset (offsetControl h l) P) s

/-- R97, R275: `cb >= 0xF0`. -/
def execLzOffsetTradLarge (n : BitVec 4) (s : State) (P : Config.Params := params) :
    Host.Outcome State Fault Refusal :=
  settle (tradOffset (offsetControl 0xF#4 n) P) s

/-- R276: a scaled offset, or the early stop. -/
def scaledOffsetOp (k : Nat) (l : BitVec 3) (P : Config.Params := params) : Eng Unit := do
  require (decide (k ≤ 26)) .e52
  let s ← getState
  let c := selOf s.loc.idx
  let v ← onCursor c fun src v => v.readMoreThan24 (selDir c) src k P
  pushOffset (BitVec.ofInt 32 (P.scaledOffset k l v.toNat))

/-- R98, R276: `k <= 26`. -/
def execLzOffsetScaled (k : BitVec 5) (l : BitVec 3) (s : State) (P : Config.Params := params) :
    Host.Outcome State Fault Refusal :=
  settle (scaledOffsetOp k.toNat l P) s

/-- R98, R276, R345: `k >= 27`, the benign early stop. -/
def execLzOffsetEarlyStop (k : BitVec 5) (l : BitVec 3) (s : State) (P : Config.Params := params) :
    Host.Outcome State Fault Refusal :=
  settle (scaledOffsetOp k.toNat l P) s

/-- R286: a length is stored and the next index is taken. -/
def pushLength (v : Nat) : Eng Unit := do
  update fun s => s.setLt { s.lt with lens := s.lt.lens ++ [BitVec.ofNat 32 (v + 3)] }
  updateLoc fun l => { l with idx := l.idx + 1 }

/-- R99, R286: `v < 255`. -/
def execLzLengthByte (v : Byte) (s : State) : Host.Outcome State Fault Refusal :=
  settle (pushLength v.toNat) s

/-- R286: the next side value, plus 255. -/
def lengthEscape (P : Config.Params := params) : Eng Unit := do
  let s ← getState
  let k := s.loc.sideUsed
  require (decide (k < s.loc.sideCount)) .e50
  match s.lt.side[k]? with
  | none => raise .e50
  | some v =>
    updateLoc fun l => { l with sideUsed := k + 1 }
    pushLength (P.sideLength v.toNat)

/-- R99, R286: the escape. -/
def execLzLengthEscape (s : State) (P : Config.Params := params) :
    Host.Outcome State Fault Refusal :=
  settle (lengthEscape P) s

end Sys2Proof.Machine
end

