-- ==== Sys2Proof/Machine/Quantum.lean ====
section
/-! DEFINITION. The Kraken quantum's sub-chunk headers (spec rules R310, R319 to R321): one meaning per row. -/

namespace Sys2Proof.Machine

/-- R310: a sub-chunk header with bit 23 set: the payload must lie in the quantum; then an LZ sub-chunk (R320), a
stored sub-chunk (R321) or E17. -/
def lzSubchunk (mode used : Nat) (P : Config.Params := params) : Eng Unit := do
  updateLoc fun l => { l with p := l.p + P.subchunkHeader }
  let s ← getState
  let l := s.loc
  require (decide (l.p + used ≤ l.e)) .e16
  if P.isLzSubchunk used l.cnt then
    updateLoc fun l => { l with mode := mode, lp := l.p, q := l.p + used }
    goto .tableStart
  else if P.isStored used l.cnt mode then
    copySrc l.d l.p l.cnt
    updateLoc fun l => { l with p := l.p + used, d := l.d + l.cnt }
    goto .quantumLoop
  else raise .e17

/-- R310, R320. -/
def execQuantumLz (m : BitVec 4) (u : BitVec 19) (s : State) (P : Config.Params := params) :
    Host.Outcome State Fault Refusal :=
  settle (lzSubchunk m.toNat u.toNat P) s

/-- R310, R321: mode 0. -/
def execQuantumStored (u : BitVec 19) (s : State) (P : Config.Params := params) :
    Host.Outcome State Fault Refusal :=
  settle (lzSubchunk 0 u.toNat P) s

/-- R310, R319: the 3 bytes are not consumed; a chunk begins at them. -/
def execQuantumEntropy (s : State) (P : Config.Params := params) :
    Host.Outcome State Fault Refusal :=
  settle (startChunk (s.loc.p + P.entropyHeader) s.loc.e s.loc.cnt .entropy) s

end Sys2Proof.Machine
end

