-- ==== Sys2Proof/Machine/Sequencer.lean ====
section
/-! DEFINITION. The sequencer: the parts of the spec's pseudocode that read no element (the block step of R301, the quantum
loop of R310, the steps of read_table and unpack_offsets between their elements), and which element the engine
expects in a state, with the bits it would read it from. -/

namespace Sys2Proof.Machine

/-! ### The block step (R301) -/

/-- R301: a block step starts; a stream header stands where `off mod 0x40000 = 0`. -/
def blockStart : Eng Unit := do
  let s ← getState
  updateLoc fun l => { l with s := s.sp }
  goto (if s.off % headerPeriod = 0 then .streamHeader else .blockEntry)

/-- R301 to R303: the block size; an uncompressed stream's block is copied. -/
def blockEntry (P : Config.Params := params) : Eng Unit := do
  update fun s => s.setPhase .decodeBlock
  let s ← getState
  let bs := min (blockSize s.sh.family P) (s.dstLen - s.off)
  updateLoc fun l => { l with bs := bs }
  if s.sh.uncompressed then
    require (decide (s.loc.s + bs ≤ s.srcLen)) .e10
    copySrc s.off s.loc.s bs
    updateLoc fun l => { l with s := l.s + bs }
    goto .blockEnd
  else goto .blockHeader

/-- R309: `n` bytes from offset `o` on, each copied from `dist` before it, in increasing order. -/
def matchCopy (dist : Nat) : Nat → Nat → Eng Unit
  | _, 0 => pure ()
  | o, n + 1 => do
    let b ← dstRead (o - dist)
    dstWrite o [b]
    matchCopy dist (o + 1) n

/-- R308, R309. -/
def fillBlock (bs : Nat) : Eng Unit := do
  let s ← getState
  let dist := s.bh.wholeMatchDistance.toNat
  if dist = 0 then dstWrite s.off (List.replicate bs (s.bh.checksum.setWidth 8))
  else
    require (decide (dist ≤ s.off)) .e11
    matchCopy dist s.off bs

/-- R301: what a block header leads to: a fill (R308, R309), a verbatim block (R312) or a quantum (R310), after the
checks of R305, R306 and R314. -/
def blockBody (P : Config.Params := params) : Eng Unit := do
  let s ← getState
  let l := s.loc
  let size := s.bh.compressedSize.toNat
  if s.bh.kind = .fill then
    fillBlock l.bs
    goto .blockEnd
  else
    require (decide (l.s + size ≤ s.srcLen)) .e08
    require (P.payloadBound size l.bs) .e09
    if size = l.bs then
      copySrc s.off l.s l.bs
      updateLoc fun l => { l with s := l.s + size }
      goto .blockEnd
    else
      require (s.sh.family == .kraken) .e13
      updateLoc fun l => { l with p := l.s, e := l.s + size, d := s.off }
      goto .quantumLoop

/-- R313, R315, R301: the block is done: `sp` and `off` move, and the job ends at DST_LEN. -/
def blockEnd : Eng Unit := do
  update fun s => s.setPos s.loc.s (s.off + s.loc.bs)
  let s ← getState
  if s.off = s.dstLen then update State.finishJob
  else
    if s.off % headerPeriod = 0 then update fun s => s.setPhase .expectStreamHeader
    goto .blockStart

/-! ### The Kraken quantum (R310) -/

/-- R310: the loop's head, and after the last sub-chunk the check of R313. -/
def quantumLoop (P : Config.Params := params) : Eng Unit := do
  let s ← getState
  let l := s.loc
  if l.d < s.off + l.bs then
    updateLoc fun l => { l with cnt := min P.subchunkSize (s.off + l.bs - l.d) }
    require (decide (l.p + P.subchunkMinimum ≤ l.e)) .e15
    goto .subHeader
  else
    require (l.p == l.s + s.bh.compressedSize.toNat) .e14
    updateLoc fun l => { l with s := l.s + s.bh.compressedSize.toNat }
    goto .blockEnd

/-! ### read_table and unpack_offsets (R260 to R287) -/

/-- R261 to R263: the checks of `mode` and of the payload's size, and the seed. -/
def tableStart (P : Config.Params := params) : Eng Unit := do
  let s ← getState
  let l := s.loc
  require (decide (l.mode ≤ 1)) .e40
  require (decide (l.lp + P.lzMinPayload ≤ l.q)) .e41
  if l.d = 0 then
    copySrc 0 l.lp seedSize
    updateLoc fun l => { l with lp := l.lp + seedSize }
  goto .lzFlag

/-- R272, R273, for a predicate that may be supplied: the scratch check and the two cursors over the bit region.  R288 has `offs`,
`lens` and `side` written entry by entry and never says when they are emptied; here they are, after the scratch check (log entry 33). -/
def unpackStart (ok : Option (Nat → Nat → Nat → Nat → Nat → Bool)) (P : Config.Params := params) : Eng Unit := do
  let s ← getState
  let l := s.loc
  let fits := match ok with
    | none => true
    | some f => f s.lt.lit.length s.lt.cmd.length s.lt.offsPacked.length s.lt.lenPacked.length l.cnt
  require fits .e44
  update fun s => s.setLt { s.lt with offs := [], lens := [], side := [] }
  initCursor .a .fwd l.lp l.q P
  initCursor .b .bwd l.lp l.q P
  if P.sideCountFirst then goto .sideCount
  else
    updateLoc fun l => { l with idx := 0 }
    goto .offsets

/-- R277, R278: the offsets corrected in index order, up to the lowest index whose corrected value is outside `i32`, with that fault's
cause; the offsets below that index stay corrected (R289, R341; log entry 28).  A missing extra byte is the mismatch of R270
(log entry 22). -/
def correctOffsets (scaling : Nat) : List Word → List Byte → List Word × Option Cause
  | [], _ => ([], none)
  | o :: os, [] => (o :: os, some .e43)
  | o :: os, x :: xs =>
    let v := (scaling : Int) * o.toInt - (x.toNat : Int)
    if -2147483648 ≤ v ∧ v ≤ 2147483647 then
      let r := correctOffsets scaling os xs
      (BitVec.ofInt 32 v :: r.1, r.2)
    else (o :: os, some .e51)

/-- R277, R278, R283: after the offsets. -/
def offsetsDone (P : Config.Params := params) : Eng Unit := do
  let s ← getState
  if 2 ≤ s.lt.scaling then
    let corrected := correctOffsets s.lt.scaling s.lt.offs (s.lt.extra.getD [])
    update fun s => s.setLt { s.lt with offs := corrected.1 }
    match corrected.2 with
    | none => pure ()
    | some e => raise e
  if P.sideCountFirst then sideBound P else goto .sideCount

/-- R284: a side value is stored, or its length code was illegal. -/
def sideStore : Eng Unit := do
  let s ← getState
  require s.resOk .e48
  update fun s => s.setLt { s.lt with side := s.lt.side ++ [BitVec.ofInt 32 s.res] }
  updateLoc fun l => { l with idx := l.idx + 1 }
  goto .sideValues

/-- R285: the cursors meet. -/
def sideDone (P : Config.Params := params) : Eng Unit := do
  let s ← getState
  require (P.cursorsMeet (s.a.consumedPos P) (s.b.consumedPos P)) .e49
  updateLoc fun l => { l with idx := 0, sideUsed := 0 }
  goto .lengths

/-- R287: the side values are used up. -/
def lengthsDone (P : Config.Params := params) : Eng Unit := do
  let s ← getState
  require (P.sideUsedUp s.loc.sideUsed s.loc.sideCount) .e50
  goto .lzRuns

/-- R311: the bytes of a supplied `ProcessLzRuns`, in increasing order from offset `o` on: the literals in order, copies
from below only; anything else breaks its contract. -/
def lzWrites : Nat → List Byte → List Config.LzByte → Eng Unit
  | _, _, [] => pure ()
  | o, lits, .literal :: ws =>
    match lits with
    | [] => refuse .openContract
    | b :: lits => do
      dstWrite o [b]
      lzWrites (o + 1) lits ws
  | o, lits, .copy j :: ws =>
    if j < o then do
      let b ← dstRead j
      dstWrite o [b]
      lzWrites (o + 1) lits ws
    else refuse .openContract

/-- R311, R320, for a run executor that may be supplied: E58 without one, E53 where it fails; a success writes every byte
of the sub-chunk after the seed. -/
def lzRuns (proc : Option (Nat → LzTable → Nat → Nat → Config.LzAnswer)) : Eng Unit := do
  let s ← getState
  let l := s.loc
  match proc with
  | none => raise .e58
  | some f =>
    let answer := f l.mode s.lt l.d l.cnt
    let s0 := if l.d = 0 then seedSize else 0
    if l.cnt - s0 < answer.writes.length then refuse .openContract
    else
      lzWrites (l.d + s0) s.lt.lit answer.writes
      match answer.result with
      | .fail => raise .e53
      | .misuse => raise .e54
      | .ok =>
        if answer.writes.length = l.cnt - s0 then
          updateLoc fun l => { l with p := l.q, d := l.d + l.cnt }
          goto .quantumLoop
        else refuse .openContract

/-! ### What comes next -/

/-- The element the engine expects, if any. -/
def State.expects (s : State) (P : Config.Params := params) : Option Ctx :=
  match s.ctl with
  | .streamHeader => some .streamHeader
  | .blockHeader =>
    some (if s.sh.family.isLzna P then .lznaBh s.sh.useChecksums else .krakenBh s.sh.useChecksums)
  | .subHeader => some (.quantum s.loc.cnt)
  | .lzFlag => some .lzFlag
  | .chunk => some .chunk
  | .selector => some .selector
  | .sparse => some .sparse
  | .gammaHeader => some .gammaHeader
  | .gammaZero => some .gammaZero
  | .gammaRun => some .gammaRun
  | .gammaResidual => some (.residual s.tmp.forcedBits)
  | .lzScaling => some .lzScaling
  | .sideCount => some .sideCount
  | .offsets => if s.loc.idx < s.lt.offsPacked.length then some (.lzOffset (decide (1 ≤ s.lt.scaling))) else none
  | .sideValues => if s.loc.idx < s.loc.sideCount then some (.lengthCode (selOf s.loc.idx)) else none
  | .lengths => if s.loc.idx < s.lt.lenPacked.length then some .lzLength else none
  | .idle => none
  | .blockStart => none
  | .blockEntry => none
  | .blockBody => none
  | .quantumLoop => none
  | .tableStart => none
  | .gammaFinish => none
  | .codesDone => none
  | .unpackStart => none
  | .sideStore => none
  | .lzRuns => none
  | .blockEnd => none

/-- The bits of one byte of a decoded stream. -/
def byteBits (l : List Byte) (i : Nat) : Bits :=
  match l[i]? with
  | none => []
  | some b => bitsOf b

/-- Bytes beyond the window that an element read from a cursor can reach: a sparse stream has at most 11 + 255 * 12 bits,
every other element fewer than 128. -/
def lookahead : Ctx → Nat
  | .sparse => 384
  | _ => 16

/-- The bits the expected element is read from: source bytes at the pseudocode's position for a header or chunk (R61, R164,
R230, R310), a byte of the LZ streams, or what a cursor reads next. -/
def State.supply (s : State) (ctx : Ctx) (P : Config.Params := params) : Bits :=
  match ctx with
  | .ctrl => []
  | .streamHeader => s.sourceBits s.loc.s s.srcLen 2
  | .krakenBh _ => s.sourceBits s.loc.s s.srcLen (P.grammar.headerBytes ctx)
  | .lznaBh _ => s.sourceBits s.loc.s s.srcLen (P.grammar.headerBytes ctx)
  | .quantum _ => s.sourceBits s.loc.p s.loc.e (P.grammar.headerBytes ctx)
  | .chunk => s.sourceBits s.loc.cp s.loc.cend (P.grammar.headerBytes ctx)
  | .lzFlag => s.sourceBits s.loc.lp s.loc.q 1
  | .lzScaling => s.sourceBits s.loc.lp s.loc.q 1
  | .lzOffset _ => byteBits s.lt.offsPacked s.loc.idx
  | .lzLength => byteBits s.lt.lenPacked s.loc.idx
  | .sideCount => (s.cursor P.sideCountCursor).upcoming s.source (lookahead ctx) P
  | .gammaCode c => (s.cursor c).upcoming s.source (lookahead ctx) P
  | .distance c _ => (s.cursor c).upcoming s.source (lookahead ctx) P
  | .lengthCode c => (s.cursor c).upcoming s.source (lookahead ctx) P
  | .moreThan24 c _ => (s.cursor c).upcoming s.source (lookahead ctx) P
  | .selector => s.a.upcoming s.source (lookahead ctx) P
  | .sparse => s.a.upcoming s.source (lookahead ctx) P
  | .gammaHeader => s.a.upcoming s.source (lookahead ctx) P
  | .gammaZero => s.a.upcoming s.source (lookahead ctx) P
  | .gammaRun => s.a.upcoming s.source (lookahead ctx) P
  | .residual _ => s.a.upcoming s.source (lookahead ctx) P

/-- The sequencer has taken an element: a length code of the side buffer is stored next (R284), which the code's own
meaning does not say. -/
def State.taken (s : State) : State :=
  if s.ctl = .sideValues then s.setCtl .sideStore else s

/-- The fault of an element that cannot be read (R173, R231, R310, R234). -/
def unreadable (e : DecodeError) (P : Config.Params := params) : Eng Unit :=
  match e with
  | .noCommand => pure ()
  | .truncatedBlockHeader => do beginLzna P; raise .e07
  | .truncatedSubchunk => raise .e15
  | .truncatedChunk => raise .e19
  | .truncatedChunkHeader => raise .e20
  | .noByte => stopFault .srcOutside

/-- The sequencer's step where no element is expected. -/
def sequence (c : Ctl) (P : Config.Params := params) : Eng Unit :=
  match c with
  | .blockStart => blockStart
  | .blockEntry => blockEntry P
  | .blockBody => blockBody P
  | .quantumLoop => quantumLoop P
  | .tableStart => tableStart P
  | .gammaFinish => gammaFinish
  | .codesDone => codesDone Config.huffDecode P
  | .unpackStart => unpackStart Config.scratchOk P
  | .offsets => offsetsDone P
  | .sideStore => sideStore
  | .sideValues => sideDone P
  | .lengths => lengthsDone P
  | .lzRuns => lzRuns Config.processLzRuns
  | .blockEnd => blockEnd
  | .idle => pure ()
  | .streamHeader => pure ()
  | .blockHeader => pure ()
  | .subHeader => pure ()
  | .lzFlag => pure ()
  | .chunk => pure ()
  | .selector => pure ()
  | .sparse => pure ()
  | .gammaHeader => pure ()
  | .gammaZero => pure ()
  | .gammaRun => pure ()
  | .gammaResidual => pure ()
  | .lzScaling => pure ()
  | .sideCount => pure ()

end Sys2Proof.Machine
end

