-- ==== Sys2Proof/Machine/Dispatch.lean ====
section
/-! DEFINITION. The dispatch: one meaning per instruction, in the opcode table's order. -/

namespace Sys2Proof.Machine

def exec (i : Instr) (s : State) : Host.Outcome State Fault Refusal :=
  match i with
  | .ctrlStart _ f => Sys2Proof.Machine.execCtrlStart f s
  | .ctrlSoftReset _ _ => Sys2Proof.Machine.execCtrlSoftReset s
  | .ctrlForgetStream _ => Sys2Proof.Machine.execCtrlForgetStream s
  | .streamHeaderLzna r u c => Sys2Proof.Machine.execStreamHeaderLzna r u c s
  | .streamHeaderKraken r u c => Sys2Proof.Machine.execStreamHeaderKraken r u c s
  | .streamHeaderMermaid r u c => Sys2Proof.Machine.execStreamHeaderMermaid r u c s
  | .streamHeaderBitknit r u c => Sys2Proof.Machine.execStreamHeaderBitknit r u c s
  | .streamHeaderLeviathan r u c => Sys2Proof.Machine.execStreamHeaderLeviathan r u c s
  | .streamHeaderBadMagic _ _ _ => Sys2Proof.Machine.execStreamHeaderBadMagic s
  | .streamHeaderBadReserved _ _ _ => Sys2Proof.Machine.execStreamHeaderBadReserved s
  | .streamHeaderBadFamily _ _ _ _ => Sys2Proof.Machine.execStreamHeaderBadFamily s
  | .streamHeaderTruncated => Sys2Proof.Machine.execStreamHeaderTruncated s
  | .krakenBhNormal _ flag2 flag1 size => Sys2Proof.Machine.execKrakenBhNormal flag2 flag1 size s
  | .krakenBhNormalCk _ flag2 flag1 size ck => Sys2Proof.Machine.execKrakenBhNormalCk flag2 flag1 size ck s
  | .krakenBhFill k => Sys2Proof.Machine.execKrakenBhFill k s
  | .krakenBhBadSentinel _ => Sys2Proof.Machine.execKrakenBhBadSentinel s
  | .krakenBhTruncated => Sys2Proof.Machine.execKrakenBhTruncated s
  | .lznaBhNormal flag2 flag1 size => Sys2Proof.Machine.execLznaBhNormal flag2 flag1 size s
  | .lznaBhNormalCk flag2 flag1 size ck => Sys2Proof.Machine.execLznaBhNormalCk flag2 flag1 size ck s
  | .lznaBhWholeMatch => Sys2Proof.Machine.execLznaBhWholeMatch s
  | .lznaBhMemset k => Sys2Proof.Machine.execLznaBhMemset k s
  | .lznaBhRaw => Sys2Proof.Machine.execLznaBhRaw s
  | .lznaBhBad => Sys2Proof.Machine.execLznaBhBad s
  | .quantumLz m u => Sys2Proof.Machine.execQuantumLz m u s
  | .quantumStored u => Sys2Proof.Machine.execQuantumStored u s
  | .quantumEntropy _ => Sys2Proof.Machine.execQuantumEntropy s
  | .chunkCopyShort size => Sys2Proof.Machine.execChunkCopyShort size s
  | .chunkCopyLong size => Sys2Proof.Machine.execChunkCopyLong size s
  | .chunkCopyLongBad _ _ => Sys2Proof.Machine.execChunkCopyLongBad s
  | .chunkTansShort d sz => Sys2Proof.Machine.execChunkTansShort d sz s
  | .chunkTansLong d sz => Sys2Proof.Machine.execChunkTansLong d sz s
  | .chunkHuff2Short d sz => Sys2Proof.Machine.execChunkHuff2Short d sz s
  | .chunkHuff2Long d sz => Sys2Proof.Machine.execChunkHuff2Long d sz s
  | .chunkRleShort d sz => Sys2Proof.Machine.execChunkRleShort d sz s
  | .chunkRleLong d sz => Sys2Proof.Machine.execChunkRleLong d sz s
  | .chunkHuff4Short d sz => Sys2Proof.Machine.execChunkHuff4Short d sz s
  | .chunkHuff4Long d sz => Sys2Proof.Machine.execChunkHuff4Long d sz s
  | .chunkRecursiveShort d sz => Sys2Proof.Machine.execChunkRecursiveShort d sz s
  | .chunkRecursiveLong d sz => Sys2Proof.Machine.execChunkRecursiveLong d sz s
  | .chunkType6 _ _ => Sys2Proof.Machine.execChunkType6 s
  | .chunkType7 _ _ => Sys2Proof.Machine.execChunkType7 s
  | .entropySelGamma => Sys2Proof.Machine.execEntropySelGamma s
  | .entropySelSparse => Sys2Proof.Machine.execEntropySelSparse s
  | .entropySelGolombRice => Sys2Proof.Machine.execEntropySelGolombRice s
  | .entropySelBad => Sys2Proof.Machine.execEntropySelBad s
  | .sparseZero => Sys2Proof.Machine.execSparseZero s
  | .sparseOne sym => Sys2Proof.Machine.execSparseOne sym s
  | .sparseMany c w pairs => Sys2Proof.Machine.execSparseMany c w pairs s
  | .gammaHeader f k => Sys2Proof.Machine.execGammaHeader f k s
  | .gammaZeroRun n b => Sys2Proof.Machine.execGammaZeroRun n b s
  | .gammaRunCount n b => Sys2Proof.Machine.execGammaRunCount n b s
  | .gammaResidual f q b => Sys2Proof.Machine.execGammaResidual f q b s
  | .gammaCode c n b => Sys2Proof.Machine.execGammaCode c n b s
  | .distanceSmall c cb x => Sys2Proof.Machine.execDistanceSmall c cb x s
  | .distanceLarge c cb x y => Sys2Proof.Machine.execDistanceLarge c cb x y s
  | .lengthCode c n b => Sys2Proof.Machine.execLengthCode c n b s
  | .sideCountCode n b => Sys2Proof.Machine.execSideCountCode n b s
  | .moreThan24 c n b => Sys2Proof.Machine.execMoreThan24 c n b s
  | .lzFlagOk _ => Sys2Proof.Machine.execLzFlagOk s
  | .lzFlagBad _ => Sys2Proof.Machine.execLzFlagBad s
  | .lzScalingPresent sel => Sys2Proof.Machine.execLzScalingPresent sel s
  | .lzScalingAbsent _ => Sys2Proof.Machine.execLzScalingAbsent s
  | .lzOffsetTradSmall h l => Sys2Proof.Machine.execLzOffsetTradSmall h l s
  | .lzOffsetTradLarge n => Sys2Proof.Machine.execLzOffsetTradLarge n s
  | .lzOffsetScaled k l => Sys2Proof.Machine.execLzOffsetScaled k l s
  | .lzOffsetEarlyStop k l => Sys2Proof.Machine.execLzOffsetEarlyStop k l s
  | .lzLengthByte v => Sys2Proof.Machine.execLzLengthByte v s
  | .lzLengthEscape => Sys2Proof.Machine.execLzLengthEscape s
  | .cursorInitFwd c lo hi => Sys2Proof.Machine.execCursorInitFwd c lo hi s
  | .cursorInitBwd c lo hi => Sys2Proof.Machine.execCursorInitBwd c lo hi s
  | .refill c => Sys2Proof.Machine.execRefill c s
  | .refillBackwards c => Sys2Proof.Machine.execRefillBackwards c s
  | .readBits c n => Sys2Proof.Machine.execReadBits c n s
  | .readBitsZero c n => Sys2Proof.Machine.execReadBitsZero c n s
  | .readBit c => Sys2Proof.Machine.execReadBit c s
  | .readBitNorefill c => Sys2Proof.Machine.execReadBitNorefill c s
  | .readGamma c => Sys2Proof.Machine.execReadGamma c s
  | .readDistance c cb => Sys2Proof.Machine.execReadDistance c cb s
  | .readDistanceB c cb => Sys2Proof.Machine.execReadDistanceB c cb s
  | .readLength c => Sys2Proof.Machine.execReadLength c s
  | .readLengthB c => Sys2Proof.Machine.execReadLengthB c s
  | .readMoreThan24Bits c n => Sys2Proof.Machine.execReadMoreThan24Bits c n s
  | .readMoreThan24BitsB c n => Sys2Proof.Machine.execReadMoreThan24BitsB c n s
  | .consumedPos c => Sys2Proof.Machine.execConsumedPos c s

end Sys2Proof.Machine
end

