-- ==== Sys2Proof/Machine/HostPort.lean ====
section
/-! DEFINITION. The host port and the engine's own step (spec rules R31 to R36, R61, R62, R374, R378, R380): what one host
access does, what the engine does next, and which of the two a step is. -/

namespace Sys2Proof.Machine

/-- R6, R61, R62: the spaces have at most 2^32 - 1 bytes. -/
def spaceSize : Nat := 4294967295

/-- R31: the registers of the window; CTRL and the reserved words read 0. -/
def State.register (s : State) (word : Nat) : Word :=
  match word with
  | 1 => s.regs.status
  | 2 => s.regs.srcLen
  | 3 => s.regs.dstLen
  | 4 => s.regs.srcUsed
  | 5 => s.regs.dstUsed
  | 6 => s.regs.savedHdr
  | _ => 0

/-- R374, file 93: the words whose read has a defined result while BUSY: STATUS, SAVED_HDR and the reserved ones. -/
def readableBusy (word : Nat) : Bool :=
  word == 1 || decide (6 ≤ word)

/-- R31, R374: a register read; while BUSY, a register other than STATUS and SAVED_HDR gives a free value (log entries 6, 25).  Once
BUSY is 0 the values are the job's final ones, whether or not the host has read STATUS since (log entry 32). -/
def State.readRegister (s : State) (word : Nat) : State :=
  if s.busy && !readableBusy word then (s.setHostData (Config.busyRead s.fresh)).setFresh (s.fresh + 1)
  else s.setHostData (s.register word)

/-- R34, R378: a write to SRC_LEN or DST_LEN while not BUSY; a write to any other register is ignored. -/
def State.writeRegister (s : State) (word : Nat) (v : Word) : State :=
  if s.busy then s
  else
    match word with
    | 2 => s.setRegs { s.regs with srcLen := v }
    | 3 => s.setRegs { s.regs with dstLen := v }
    | _ => s

/-- R32: a write to CTRL; a word without a command bit does nothing. -/
def writeCtrl (v : Word) (s : State) (P : Config.Params := params)
    (run : Instr → State → Host.Outcome State Fault Refusal := exec) : Host.Outcome State Fault Refusal :=
  match decode .ctrl (bitsOf v) P.grammar with
  | .ok i => run i s
  | .error _ => .next s

/-- R374, file 93: while BUSY the host must leave the source and destination spaces alone: such a run is refused.  From the job's end
on it may use them, whether or not it has read STATUS since (log entry 32). -/
def whileIdle (s : State) (o : Host.Outcome State Fault Refusal) : Host.Outcome State Fault Refusal :=
  if s.busy then .refused .hostDuty else o

/-- One access of the host (R31, R61, R62, R373, R374). -/
def hostAccess (op : HostOp) (s : State) (P : Config.Params := params)
    (run : Instr → State → Host.Outcome State Fault Refusal := exec) : Host.Outcome State Fault Refusal :=
  match op with
  | .regWrite word v => if word = 0 then writeCtrl v s P run else .next (s.writeRegister word v)
  | .regRead word => .next (s.readRegister word)
  | .srcWrite a b =>
    whileIdle s (if a < spaceSize then .next (s.setSrc (Memory.write s.src a b)) else .fault .srcOutside)
  | .dstRead a =>
    whileIdle s (if a < spaceSize then .next (s.setHostData ((dstValue s.dst a).setWidth 32)) else .fault .dstOutside)
  | .dstWrite a b =>
    whileIdle s (if a < spaceSize then .next (s.setDst (Memory.write s.dst a b)) else .fault .dstOutside)

/-- The engine's step: an operation issued on its own, else the expected element read and run, else the sequencer's
own step.  An idle engine stays as it is. -/
def engineStep (s : State) (P : Config.Params := params)
    (run : Instr → State → Host.Outcome State Fault Refusal := exec) : Host.Outcome State Fault Refusal :=
  match s.direct with
  | i :: rest => run i (s.setDirect rest)
  | [] =>
    match s.expects P with
    | none => settle (sequence s.ctl P) s
    | some ctx =>
      match decode ctx (s.supply ctx P) P.grammar with
      | .ok i => run i s.taken
      | .error e => settle (unreadable e P) s

/-- R380: a block step is atomic to the host: its accesses land between block steps, or while no job runs. -/
def State.boundary (s : State) : Bool :=
  s.ctl == .idle || s.ctl == .blockStart

/-- One step of the machine: the host's access that is due at a boundary, else the engine's step. -/
def machineStep (s : State) (P : Config.Params := params)
    (run : Instr → State → Host.Outcome State Fault Refusal := exec) : Host.Outcome State Fault Refusal :=
  if s.boundary then
    match s.host with
    | [] => engineStep s P run
    | ⟨0, op⟩ :: rest => hostAccess op (s.setHost rest) P run
    | ⟨n + 1, op⟩ :: rest => engineStep (s.setHost (⟨n, op⟩ :: rest)) P run
  else engineStep s P run

end Sys2Proof.Machine
end

