-- ==== Sys2Proof/Machine/Fetch.lean ====
section
/-! DEFINITION. Placing one element where the engine reads its next one.  The engine has no instruction stream (R2, R73): the
element is put at source offset 0, into the decoded stream, or into the host's CTRL write that its context reads, and
the sequencer is set to expect it (log entry 11). -/

namespace Sys2Proof.Machine

/-- The `n` bytes of a big-endian number (R64). -/
def wordBytes : Nat → Nat → List Byte
  | 0, _ => []
  | n + 1, w => BitVec.ofNat 8 (w >>> (8 * n)) :: wordBytes n w

/-- The source bytes an element placed at offset 0 is read from: its own and zeros after it. -/
def placedSize : Nat := 16

/-- The element's bytes and zeros at source offset 0, in a job that has started (R300). -/
def State.placeSource (s : State) (bytes : List Byte) : State :=
  ((s.setSrc (Memory.writeList s.src 0 (bytes ++ List.replicate (placedSize - bytes.length) 0))).setRegs
    { s.regs with status := statusBusy, srcLen := BitVec.ofNat 32 placedSize }).setDirect []

/-- R164: the header register that makes the block header's layout the one asked for. -/
def State.placeLayout (s : State) (fam : Family) (checksums : Bool) : State :=
  (s.setSh { s.sh with family := fam, useChecksums := checksums }).setPhase .decodeBlock

/-- The state in which the next element read is the one whose bytes are given, in the context given. -/
def State.placeElement (s : State) (ctx : Ctx) (bytes : List Byte) : State :=
  let t := s.placeSource bytes
  match ctx with
  | .streamHeader =>
    ((t.setPhase .expectStreamHeader).setLoc { t.loc with s := 0 }).setCtl .streamHeader
  | .krakenBh ck => ((t.placeLayout .kraken ck).setLoc { t.loc with s := 0 }).setCtl .blockHeader
  | .lznaBh ck => ((t.placeLayout .lzna ck).setLoc { t.loc with s := 0 }).setCtl .blockHeader
  | .quantum cnt =>
    ((t.setPhase .decodeBlock).setLoc { t.loc with p := 0, e := placedSize, cnt := cnt }).setCtl .subHeader
  | .chunk =>
    ((t.setPhase .decodeBlock).setLoc
      { t.loc with cp := 0, cend := placedSize, cap := params.subchunkSize, dest := .lit, lp := 0, q := placedSize }).setCtl .chunk
  | .sparse =>
    ((t.setPhase .decodeBlock).setA (Cursor.initFwd t.source 0 placedSize)).setCtl .sparse
  | .lzFlag =>
    ((t.setPhase .decodeBlock).setLoc { t.loc with lp := 0, q := placedSize }).setCtl .lzFlag
  | .lzScaling =>
    ((t.setPhase .decodeBlock).setLoc { t.loc with lp := 0, q := placedSize }).setCtl .lzScaling
  | .lzOffset scaled =>
    ((((t.setPhase .decodeBlock).setA (Cursor.initFwd t.source 0 placedSize)).setLt
      { t.lt with offsPacked := bytes, scaling := scaled.toNat }).setLoc { t.loc with idx := 0 }).setCtl .offsets
  | .lzLength =>
    (((t.setPhase .decodeBlock).setLt { t.lt with lenPacked := bytes }).setLoc { t.loc with idx := 0 }).setCtl .lengths
  | .ctrl => s
  | .selector => s
  | .gammaHeader => s
  | .gammaZero => s
  | .gammaRun => s
  | .residual _ => s
  | .gammaCode _ => s
  | .distance _ _ => s
  | .lengthCode _ => s
  | .sideCount => s
  | .moreThan24 _ _ => s

/-- The state whose next step reads and runs the opcode-table word given: a CTRL word is the host's next access, any other
element stands where its context reads it. -/
def State.placeWord (s : State) (nbits w : Nat) : State :=
  match tableCtx nbits w with
  | none => s
  | some .ctrl =>
    let t := if s.boundary then s else s.setCtl .idle
    t.setHost [⟨0, .regWrite 0 (BitVec.ofNat 32 w)⟩]
  | some ctx => s.placeElement ctx (wordBytes (nbits / 8) w)

end Sys2Proof.Machine
end

