-- ==== Sys2Proof/Machine/Step.lean ====
section
/-! DEFINITION. The step of the machine, and the placing of an instruction where the next step reads it. -/

namespace Sys2Proof.Machine

/-- One step: a host access that is due, else the engine's next element or the next step of its sequencer. -/
def step (s : State) : Host.Outcome State Fault Refusal :=
  machineStep s

/-- `s` with the opcode-table word placed so that the next step runs it. -/
def State.withFetchWord (s : State) (nbits w : Nat) : State :=
  s.placeWord nbits w

end Sys2Proof.Machine
end

