-- ==== Sys2Proof/Safety.lean ====
section
/-! DEFINITION. The terms claims are stated in: what a fault leaves (R341, R343), what a cursor holds and how far it has
read (R23, R135), how memories differ, what a chunk's caller receives, and what every state of a run satisfies. -/

namespace Sys2Proof.Machine

/-! ### Faults -/

/-- R33, R341: STATUS after the fault of class `k` and cause `e`: `ERR` (or `EARLY_STOP` for class 5), class, cause. -/
abbrev faultStatus (k e : Nat) : Word :=
  BitVec.ofNat 32 ((if k = 5 then 8 else 4) + 16 * k + 256 * e)

/-- R341, R343: the fault of class `k` and cause `e` ended the job of `s` in `t`: STATUS and the phase say so, SRC_USED and
DST_USED are `sp` and `off` (modulo 2^32, log entry 9), each destination byte is the job's or the one before the job, and nothing else that the spec names
has changed (`ctl` is the model's own). -/
abbrev FaultTaken (k e : Nat) (s t : State) : Prop :=
  t.regs = { s.regs with
    status := faultStatus k e, srcUsed := BitVec.ofNat 32 s.sp, dstUsed := BitVec.ofNat 32 s.off } ∧
  t.phase = (if k = 5 then Phase.stopped else Phase.faulted) ∧
  t.ctl = Ctl.idle ∧
  (∀ a, Memory.read t.dst a = Memory.read s.dst a ∨ (s.busy = true ∧ Memory.read t.dst a = Memory.read s.dst0 a)) ∧
  t = { s with regs := t.regs, phase := t.phase, ctl := t.ctl, dst := t.dst }

/-- The instruction takes the fault of class `k` and cause `e`, having changed nothing before it. -/
abbrev Faults (k e : Nat) (i : Instr) (s : State) : Prop :=
  ∃ t, exec i s = .next t ∧ FaultTaken k e s t

/-- The machine's step takes the fault of class `k` and cause `e`, having changed nothing before it. -/
abbrev StepFaults (k e : Nat) (s : State) : Prop :=
  ∃ t, step s = .next t ∧ FaultTaken k e s t

/-! ### Memories -/

/-- `m'` is `m` with the `n` bytes `f 0 .. f (n - 1)` at `o`; every other byte is unchanged. -/
abbrev Memory.Stored (m : Memory) (o n : Nat) (f : Nat → Byte) (m' : Memory) : Prop :=
  ∀ a, Memory.read m' a = if o ≤ a ∧ a < o + n then some (f (a - o)) else Memory.read m a

/-! ### Cursors -/

/-- R8: the `i32` that an integer wraps to. -/
abbrev i32 (x : Int) : Int :=
  x.bmod 4294967296

/-- R23: the window's valid bits are left-justified and every bit below them is 0. -/
abbrev Cursor.sound (c : Cursor) : Prop :=
  -7 ≤ c.fill ∧ c.fill ≤ 24 ∧ c.window <<< c.validBits = 0

/-- R23, R136: a cursor after a refill: `-7 <= fill <= 0`. -/
abbrev Cursor.filled (c : Cursor) : Prop :=
  c.sound ∧ c.fill ≤ 0

/-- The bits given are the next ones the cursor reads. -/
abbrev Cursor.reads (src : Source) (c : Cursor) (bits : Bits) : Prop :=
  bits <+: c.upcoming src bits.length

/-- `c'` is `c` with `n` bits consumed, over the same slice in the same direction: what it reads next is what `c` reads
after those `n` bits. -/
def Cursor.Advanced (src : Source) (n : Nat) (c c' : Cursor) : Prop :=
  c'.sound ∧ c'.lo = c.lo ∧ c'.hi = c.hi ∧ c'.dir = c.dir ∧
  ∀ k, c'.upcoming src k = (c.upcoming src (k + (c'.pos - c.pos).natAbs)).drop n

/-- `c'` is `c` with `n` bits consumed, and refilled after them. -/
def Cursor.AdvancedFull (src : Source) (n : Nat) (c c' : Cursor) : Prop :=
  c.Advanced src n c' ∧ c'.fill ≤ 0

/-! ### Chunks -/

/-- R235: a copy chunk of `size` bytes after a header of `hdr` bytes fits its capacity, its range and the source. -/
abbrev State.copyFits (s : State) (hdr size : Nat) : Prop :=
  size ≤ s.loc.cap ∧ s.loc.cp + hdr + size ≤ s.loc.cend ∧ s.loc.cend ≤ s.srcLen

/-- R238: a compressed chunk's payload fits its range and its output the capacity. -/
abbrev State.payloadFits (s : State) (hdr srcSize dstSize : Nat) : Prop :=
  s.loc.cp + hdr + srcSize ≤ s.loc.cend ∧ dstSize ≤ s.loc.cap

/-- R235: the source bytes of a copy chunk. -/
abbrev State.copied (s : State) (hdr size : Nat) : List Byte :=
  srcValues s.src (s.loc.cp + hdr) size

/-- The checks a chunk's caller makes on the chunk's output and length: R319 (E18), R267 (E41), R270 (E43). -/
abbrev State.accepts (s : State) (out : List Byte) (n : Nat) : Prop :=
  match s.loc.dest with
  | .entropy => out.length = s.loc.cnt ∧ s.loc.d + s.loc.cnt ≤ s.dstLen
  | .lit => True
  | .cmd => s.loc.lp + n + 3 ≤ s.loc.q
  | .offs => True
  | .extra => out.length = s.lt.offsPacked.length
  | .lens => True

/-- R319, R265, R266, R269 to R271: what the caller of a chunk that gave `out` and took `n` bytes does with it. -/
def State.Delivered (s : State) (out : List Byte) (n : Nat) (t : State) : Prop :=
  let l := s.loc
  match l.dest with
  | .entropy =>
    t = { s with dst := t.dst, loc := { l with p := l.p + n, d := l.d + l.cnt }, ctl := .quantumLoop } ∧
    Memory.Stored s.dst l.d l.cnt (fun j => out[j]?.getD 0) t.dst
  | .lit =>
    t = { s with
      lt := { s.lt with lit := out },
      loc := { l with lp := l.lp + n, cp := l.lp + n, cend := l.q, cap := l.cnt, dest := .cmd },
      ctl := .chunk }
  | .cmd =>
    t = { s with
      lt := { s.lt with cmd := out, scaling := 0 }, loc := { l with lp := l.lp + n }, ctl := .lzScaling }
  | .offs =>
    t = { s with
      lt := { s.lt with offsPacked := out, extra := none },
      loc := { l with lp := l.lp + n, cp := l.lp + n, cend := l.q,
                      cap := if 2 ≤ s.lt.scaling then out.length else l.cnt / 4,
                      dest := if 2 ≤ s.lt.scaling then .extra else .lens },
      ctl := .chunk }
  | .extra =>
    t = { s with
      lt := { s.lt with extra := some out },
      loc := { l with lp := l.lp + n, cp := l.lp + n, cend := l.q, cap := l.cnt / 4, dest := .lens },
      ctl := .chunk }
  | .lens =>
    t = { s with lt := { s.lt with lenPacked := out }, loc := { l with lp := l.lp + n }, ctl := .unpackStart }

/-- R319, R267, R270: the caller's check of a chunk that gave `out` and took `n` bytes fails. -/
abbrev State.rejects (s : State) (out : List Byte) (n : Nat) : Prop :=
  match s.loc.dest with
  | .entropy => out.length ≠ s.loc.cnt
  | .lit => False
  | .cmd => s.loc.q < s.loc.lp + n + 3
  | .offs => False
  | .extra => out.length ≠ s.lt.offsPacked.length
  | .lens => False

/-- R319 (E18), R267 (E41), R270 (E43): the fault of that check, after what the caller wrote before it. -/
def State.CallerFault (s : State) (out : List Byte) (n : Nat) (t : State) : Prop :=
  match s.loc.dest with
  | .entropy => FaultTaken 3 18 s t
  | .lit => False
  | .cmd => FaultTaken 2 41 { s with lt := { s.lt with cmd := out }, loc := { s.loc with lp := s.loc.lp + n } } t
  | .offs => False
  | .extra => FaultTaken 3 43 { s with lt := { s.lt with extra := some out }, loc := { s.loc with lp := s.loc.lp + n } } t
  | .lens => False

/-- R121, R191, R192: a Huffman chunk has begun: cursor A stands at its payload, the code table is empty, and the
selector comes next. -/
abbrev State.huffStarted (s : State) (type hdr srcSize dstSize : Nat) : State :=
  { s with
    a := Cursor.initFwd s.source (s.loc.cp + hdr) (s.loc.cp + hdr + srcSize),
    ct := { syms := [], codePrefix := #v[0x0, 0x0, 0x2, 0x6, 0xE, 0x1E, 0x3E, 0x7E, 0xFE, 0x1FE, 0x2FE, 0x3FE] },
    loc := { s.loc with hdr := hdr, srcSize := srcSize, dstSize := dstSize, ctype := type },
    ctl := .selector }

/-! ### Code tables -/

/-- R193: `insert(sym, len)`. -/
def CodeTable.insert (t : CodeTable) (sym : Byte) (len : Nat) : CodeTable :=
  { syms := Memory.write t.syms (t.codePrefix[len]?.getD 0).toNat sym,
    codePrefix := t.codePrefix.setIfInBounds len (t.codePrefix[len]?.getD 0 + 1) }

/-- R202: the pairs of a sparse stream inserted in order, each with the length its field says. -/
def CodeTable.insertPairs : CodeTable → List (Byte × BitVec 4) → CodeTable
  | t, [] => t
  | t, (sym, l) :: ps => (t.insert sym (l.toNat + 1)).insertPairs ps

/-- R205: the insertions of a supplied code-length reader, in order. -/
def CodeTable.insertAll : CodeTable → List (Byte × Nat) → CodeTable
  | t, [] => t
  | t, (sym, len) :: rest => (t.insert sym len).insertAll rest

/-- R30: the first slot of each code length; entry 0 is unused. -/
abbrev firstSlots : Vector Word 12 :=
  #v[0x0, 0x0, 0x2, 0x6, 0xE, 0x1E, 0x3E, 0x7E, 0xFE, 0x1FE, 0x2FE, 0x3FE]

/-- R215, R202: a complete prefix code: the symbols inserted with each length from 1 to 11 fill the code space, and none stands
twice (log entry 31). -/
def CodeTable.Complete (t : CodeTable) : Prop :=
  let first (len : Nat) : Nat := (firstSlots[len]?.getD 0).toNat
  let count (len : Nat) : Nat := (t.codePrefix[len]?.getD 0).toNat - first len
  ((List.range' 1 11).map fun len => count len * 2 ^ (11 - len)).sum = 2 ^ 11 ∧
  ((List.range' 1 11).flatMap fun len => (List.range (count len)).map fun i => Memory.read t.syms (first len + i)).Nodup

/-! ### LZ runs -/

/-- R311: the byte written is the next literal. -/
def writesLiteral : Config.LzByte → Bool
  | .literal => true
  | .copy _ => false

/-- R311: the writes from offset `o` on take no more literals than there are, and copy from below only. -/
abbrev State.LzAllowed (s : State) (o : Nat) (ws : List Config.LzByte) : Prop :=
  ws.countP writesLiteral ≤ s.lt.lit.length ∧ ∀ j k, ws[j]? = some (.copy k) → k < o + j

/-- R311: `m` is the destination with the writes stored from offset `o` on: the literals in order, each copy equal to the byte it is
copied from; every other byte is unchanged. -/
abbrev State.LzWritten (s : State) (o : Nat) (ws : List Config.LzByte) (m : Memory) : Prop :=
  (∀ j w, ws[j]? = some w → Memory.read m (o + j) = some (match w with
    | .literal => s.lt.lit[(ws.take j).countP writesLiteral]?.getD 0
    | .copy k => dstValue m k)) ∧
  ∀ a, a < o ∨ o + ws.length ≤ a → Memory.read m a = Memory.read s.dst a

/-! ### What every state of a run satisfies -/

/-- Every memory of the state is in canonical form. -/
abbrev State.memoriesCanonical (s : State) : Prop :=
  Memory.wf s.src = true ∧ Memory.wf s.dst = true ∧ Memory.wf s.dst0 = true ∧ Memory.wf s.ct.syms = true

/-- R26, R33: STATUS, the phase and the sequencer agree: a job runs, or the last job's end is what STATUS says. -/
def State.statusAgrees (s : State) : Prop :=
  (s.regs.status = 1#32 ∧ s.ctl ≠ .idle ∧ (s.phase = .expectStreamHeader ∨ s.phase = .decodeBlock)) ∨
  (s.ctl = .idle ∧
    ((s.regs.status = 0#32 ∧ s.phase = .idle) ∨
     (s.regs.status = 2#32 ∧ s.phase = .finished) ∨
     (s.regs.status = faultStatus 5 52 ∧ s.phase = .stopped) ∨
     (∃ c : Cause, c.cls ≠ .earlyStop ∧ s.regs.status = faultStatus c.cls.number c.number ∧ s.phase = .faulted)))

/-- The sequencer is between the choice of a block's size (R302) and the block's end. -/
abbrev Ctl.inBlock (c : Ctl) : Prop :=
  c ≠ .idle ∧ c ≠ .blockStart ∧ c ≠ .streamHeader ∧ c ≠ .blockEntry

/-- R301, R302, R313: while a job runs the output is short of DST_LEN, the block being decoded has at least one byte and ends
at DST_LEN or before, and the local source offset has not gone back. -/
def State.blockInRange (s : State) : Prop :=
  s.ctl ≠ .idle → s.off < s.dstLen ∧ (s.ctl ≠ .blockStart → s.sp ≤ s.loc.s) ∧
    (s.ctl.inBlock → 1 ≤ s.loc.bs ∧ s.off + s.loc.bs ≤ s.dstLen)

/-- R36: bits 30:10 of SAVED_HDR are 0. -/
abbrev State.savedHdrReserved (s : State) : Prop :=
  s.regs.savedHdr &&& 0x7FFFFC00#32 = 0#32

/-- What holds in every state of a run that issues no operation on its own. -/
structure State.Inv (s : State) : Prop where
  direct : s.direct = []
  memories : s.memoriesCanonical
  status : s.statusAgrees
  block : s.blockInRange
  saved : s.savedHdrReserved

end Sys2Proof.Machine
end

