-- ==== Sys2Proof/Certificates/Slice0/Obligations.lean ====
section
/-! DEFINITION. The statements for the provers.  A statement of an instruction's result says that `exec` answers a next state and
gives that state as a record update of the old one, so that every field it does not name is unchanged (the frame); where bytes are
stored, `Memory.Stored` says which, and that every other byte reads as before. -/

open Sys2Proof Sys2Proof.Machine

/-! ### Reset, invariants, runs -/

/-- R38, R370: what reset leaves, for the state whose reset value the spec gives. -/
def Obligations.ResetState : Prop :=
  State.reset.phase = .idle ∧ State.reset.sp = 0 ∧ State.reset.off = 0 ∧ State.reset.regs.status = 0#32 ∧
  State.reset.regs.srcLen = 0#32 ∧ State.reset.regs.dstLen = 0#32 ∧ State.reset.regs.srcUsed = 0#32 ∧
  State.reset.regs.dstUsed = 0#32 ∧ State.reset.regs.savedHdr.getLsbD 31 = false ∧
  (State.reset.readRegister 0).hostData = 0#32 ∧ State.reset.readRegister 0 = State.reset

/-- The state after reset satisfies the invariant.  (That bits 30:10 of SAVED_HDR are 0 there rests on log entry 2.) -/
def Obligations.ResetInvariant : Prop :=
  State.reset.Inv

/-- R26, R33, R36, R301, R302: every step keeps the invariant. -/
def Obligations.StepKeepsInvariant : Prop :=
  ∀ s t : State, s.Inv → step s = .next t → t.Inv

/-- Every step keeps the canonical form of the memories (the model's, log entry 3), whatever operations are issued on their own
(log entry 14). -/
def Obligations.StepKeepsMemories : Prop :=
  ∀ s t : State, s.memoriesCanonical → step s = .next t → t.memoriesCanonical

/-- R313, R26: while a job goes on, `sp` and `off` do not decrease, and `off` stays below DST_LEN. -/
def Obligations.PositionsGrow : Prop :=
  ∀ s t : State, s.Inv → step s = .next t → s.busy = true → t.busy = true →
    s.sp ≤ t.sp ∧ s.off ≤ t.off ∧ t.off < t.dstLen

/-- R61, R62, R380, R378: a step of the engine inside a block step leaves the source space, SRC_LEN, DST_LEN and the host's
accesses as they are, and stores nothing at or above DST_LEN unless it ends the job. -/
def Obligations.EngineLeavesHostAlone : Prop :=
  ∀ s t : State, s.direct = [] → s.boundary = false → step s = .next t →
    t.src = s.src ∧ t.regs.srcLen = s.regs.srcLen ∧ t.regs.dstLen = s.regs.dstLen ∧ t.host = s.host ∧
    t.hostData = s.hostData ∧ t.dst0 = s.dst0 ∧ t.direct = [] ∧
    (t.ctl ≠ .idle → ∀ a, s.dstLen ≤ a → Memory.read t.dst a = Memory.read s.dst a)

/-! ### Decoding and encoding -/

/-- The bytes of a few elements, written out from spec file 30_encoding.md, decode to what they stand for. -/
def Obligations.WordsDecode : Prop :=
  decode .streamHeader (bitsOfBytes [0x8C, 0x86]) = .ok (.streamHeaderKraken true false true) ∧
  decode (.krakenBh true) (bitsOfBytes [0x0C, 0x00, 0x10, 0x12, 0x34, 0x56]) =
    .ok (.krakenBhNormalCk 0 true true 16 0x123456) ∧
  decode (.krakenBh false) (bitsOfBytes [0x07, 0xFF, 0xFF, 0x5A]) = .ok (.krakenBhFill 0x5A) ∧
  decode (.lznaBh false) (bitsOfBytes [0x40, 0x09]) = .ok (.lznaBhNormal false true 9) ∧
  decode (.quantum 32) (bitsOfBytes [0x88, 0x00, 0x19]) = .ok (.quantumLz 1 25) ∧
  decode .chunk (bitsOfBytes [0x20, 0x00, 0x3C, 0x00, 0x03]) = .ok (.chunkHuff2Long 15 3) ∧
  decode .chunk (bitsOfBytes [0xA0, 0x04, 0x03]) = .ok (.chunkHuff2Short 1 3) ∧
  decode (.gammaCode .a) [false, true, true, false] = .ok (.gammaCode .a 1 2) ∧
  decode (.lzOffset true) (bitsOfBytes [0xD8]) = .ok (.lzOffsetEarlyStop 27 0) ∧
  decode .ctrl (bitsOfBytes [0, 0, 0, 3]) = .ok (.ctrlSoftReset 0 true)

/-- Decoding the encoding of a well-formed element gives the element back, whatever bits follow it (a chunk of an illegal type is
named by its first byte, but a chunk has two bytes or more, R231). -/
def Obligations.DecodeEncode : Prop :=
  ∀ (ctx : Ctx) (i : Instr) (bits rest : Bits), ctx.admits i = true → encode i = some bits →
    (ctx = .chunk → 16 ≤ bits.length + rest.length) → decode ctx (bits ++ rest) = .ok i

/-- What the decoder reads is well formed and belongs to its context, and its encoding is what stood there (with zeros after the
end of the string, as a cursor reads them, R123). -/
def Obligations.EncodeDecode : Prop :=
  ∀ (ctx : Ctx) (i : Instr) (bs : Bits), (∀ c n, ctx = .moreThan24 c n → n ≤ 26) → decode ctx bs = .ok i →
    ctx.admits i = true ∧ ∀ bits, encode i = some bits → bits <+: bs ++ List.replicate bits.length false

/-- R32: which command a word written to CTRL is, bit by bit. -/
def Obligations.CtrlWords : Prop :=
  ∀ v : Word, decode .ctrl (bitsOf v) =
    if v.getLsbD 1 then .ok (.ctrlSoftReset (v.extractLsb' 2 30) (v.getLsbD 0))
    else if v.getLsbD 0 then .ok (.ctrlStart (v.extractLsb' 3 29) (v.getLsbD 2))
    else if v.getLsbD 2 then .ok (.ctrlForgetStream (v.extractLsb' 3 29))
    else .error .noCommand

/-! ### A step runs what stands there -/

/-- A step runs the instruction that stands there.  Where the engine expects an element and its bits decode to one, the step is that
element's meaning (a length code of the side buffer is stored by the sequencer's next step, `State.taken`).  A word the host writes
to CTRL between block steps runs as the command it decodes to, and a word without a command bit changes nothing (R32).  An
operation issued on its own is run by the engine's next step.  Where the expected element cannot be read, the step is the fault of
`unreadable` (`BlockHeaders` and `ChunkSizeFaults` say which).  A host access that still waits is counted down, and the engine takes
its step.  (The host's pending accesses are log entry 7, the queue of operations log entry 14.) -/
def Obligations.StepRunsInstruction : Prop :=
  (∀ (s : State) (ctx : Ctx) (i : Instr), s.direct = [] → s.expects = some ctx →
     decode ctx (s.supply ctx) = .ok i →
     step s = exec i s.taken ∧ (s.ctl ≠ .sideValues → s.taken = s) ∧
     (s.ctl = .sideValues → s.taken = { s with ctl := .sideStore })) ∧
  (∀ (s : State) (v : Word) (rest : List HostEvent), s.boundary = true → s.host = ⟨0, .regWrite 0 v⟩ :: rest →
     (∀ i, decode .ctrl (bitsOf v) = .ok i → step s = exec i { s with host := rest }) ∧
     (∀ e, decode .ctrl (bitsOf v) = .error e → step s = .next { s with host := rest })) ∧
  (∀ (s : State) (i : Instr) (rest : List Instr), s.direct = i :: rest → (s.boundary = true → s.host = []) →
     step s = exec i { s with direct := rest }) ∧
  (∀ (s : State) (ctx : Ctx) (e : DecodeError), s.direct = [] → s.expects = some ctx →
     decode ctx (s.supply ctx) = .error e → step s = settle (unreadable e) s) ∧
  (∀ (s : State) (n : Nat) (op : HostOp) (rest : List HostEvent), s.boundary = true → s.host = ⟨n + 1, op⟩ :: rest →
     step s = engineStep { s with host := ⟨n, op⟩ :: rest })

/-- An element read from a cursor is always there when the engine runs it: `step` never answers that it is not (the refusal is the
model's, log entry 13). -/
def Obligations.ElementsAreThere : Prop :=
  ∀ s : State, s.direct = [] → ∀ r, step s = .refused r → r ≠ .notAtCursor ∧ ∀ m, r ≠ .notModelled m

/-! ### The host's accesses -/

/-- R31, R33 to R36, R374: register reads, while no job runs and (STATUS, SAVED_HDR and the reserved words) while one does.
R34, R378: SRC_LEN and DST_LEN hold what is written while no job runs; every other register write is ignored (CTRL, word 0,
apart).  What any other read gives while a job runs is free (log entry 6).  That a read of SAVED_HDR while a job runs gives its value is the
model's reading of R70 and R374 (log entry 25), and that the registers of an ended job read so before the host has read STATUS is the
model's choice (log entry 32). -/
def Obligations.RegisterWindow : Prop :=
  (∀ (s : State) (k : Nat) (rest : List HostEvent), s.boundary = true → s.host = ⟨0, .regRead k⟩ :: rest →
     (s.busy = false ∨ k = 1 ∨ 6 ≤ k →
       step s = .next { s with host := rest, hostData :=
         if k = 1 then s.regs.status else if k = 2 then s.regs.srcLen else if k = 3 then s.regs.dstLen
         else if k = 4 then s.regs.srcUsed else if k = 5 then s.regs.dstUsed else if k = 6 then s.regs.savedHdr else 0#32 }) ∧
     (s.busy = true → k ≠ 1 → k < 6 →
       ∃ v, step s = .next { s with host := rest, hostData := v, fresh := s.fresh + 1 })) ∧
  (∀ (s : State) (k : Nat) (v : Word) (rest : List HostEvent), s.boundary = true →
     s.host = ⟨0, .regWrite (k + 1) v⟩ :: rest →
     step s = .next
       (if s.busy = false ∧ k = 1 then { s with host := rest, regs := { s.regs with srcLen := v } }
        else if s.busy = false ∧ k = 2 then { s with host := rest, regs := { s.regs with dstLen := v } }
        else { s with host := rest }))

/-- R61, R62, R374: the host's accesses to the source and destination spaces; while a job runs they are refused
(log entry 19); the bound of the offsets is log entry 8; that an ended job's spaces may be used before the host has read STATUS is
log entry 32. -/
def Obligations.HostSpaces : Prop :=
  ∀ (s : State) (a : Nat) (b : Byte) (rest : List HostEvent), s.boundary = true → a < 4294967295 →
    (s.host = ⟨0, .srcWrite a b⟩ :: rest → s.busy = false →
      ∃ t, step s = .next t ∧ t = { s with host := rest, src := t.src } ∧
        Memory.Stored s.src a 1 (fun _ => b) t.src) ∧
    (s.host = ⟨0, .dstWrite a b⟩ :: rest → s.busy = false →
      ∃ t, step s = .next t ∧ t = { s with host := rest, dst := t.dst } ∧
        Memory.Stored s.dst a 1 (fun _ => b) t.dst) ∧
    (s.host = ⟨0, .dstRead a⟩ :: rest → s.busy = false →
      ∃ v : Byte, step s = .next { s with host := rest, hostData := v.setWidth 32 } ∧
        ∀ w, Memory.read s.dst a = some w → v = w) ∧
    (s.host = ⟨0, .srcWrite a b⟩ :: rest ∨ s.host = ⟨0, .dstWrite a b⟩ :: rest ∨ s.host = ⟨0, .dstRead a⟩ :: rest →
      s.busy = true → step s = .refused .hostDuty)

/-! ### Host commands -/

/-- R300, R34, R32, R316: START while no job runs: E47 above the limit, success at once for an empty output, else a job at its
first block step; FORGET_STREAM is done before it when its bit is set.  R21: the job's working records are fresh ones, of which only
`CT.syms` without a value is stated.  (`dst0` is the model's snapshot for R343, log entry 5; what the fresh records hold is log entry
15; that a started job's SRC_USED and DST_USED stay until it ends is log entry 26; that a START without the boot set-up of R373 runs as
any other is the model's choice, log entry 34; the limit is log entry 1.) -/
def Obligations.Start : Prop :=
  Config.maxDstLen ≤ 2147483647 ∧
  ∀ (s : State) (x : BitVec 29) (f : Bool), s.busy = false →
    let saved := if f then s.regs.savedHdr &&& 0x7FFFFFFF#32 else s.regs.savedHdr
    let dstLen := s.regs.dstLen.toNat
    (Config.maxDstLen < dstLen →
      exec (.ctrlStart x f) s = .next
        { s with regs := { s.regs with status := faultStatus 4 47, srcUsed := 0#32, dstUsed := 0#32, savedHdr := saved },
                 phase := .faulted, ctl := .idle, dst0 := s.dst }) ∧
    (dstLen ≤ Config.maxDstLen →
      ∃ t, exec (.ctrlStart x f) s = .next t ∧ t.ct.syms = [] ∧
        t = { s with
          regs := if dstLen = 0 then
              { s.regs with status := 2#32, srcUsed := 0#32, dstUsed := 0#32, savedHdr := saved }
            else { s.regs with status := 1#32, savedHdr := saved },
          phase := if dstLen = 0 then .finished else .expectStreamHeader,
          ctl := if dstLen = 0 then .idle else .blockStart,
          dst0 := s.dst, sp := 0, off := 0,
          sh := t.sh, bh := t.bh, a := t.a, b := t.b, ct := t.ct, lt := t.lt, tmp := t.tmp, fresh := t.fresh })

/-- R32, R378: while a job runs START and FORGET_STREAM are ignored.  R32, R36: while none runs FORGET_STREAM clears VALID and
leaves the other bits of SAVED_HDR, and all else, as they were. -/
def Obligations.ForgetStream : Prop :=
  (∀ (s : State) (x : BitVec 29) (f : Bool), s.busy = true →
     exec (.ctrlStart x f) s = .next s ∧ exec (.ctrlForgetStream x) s = .next s) ∧
  (∀ (s : State) (x : BitVec 29), s.busy = false →
     ∃ w : Word, exec (.ctrlForgetStream x) s = .next { s with regs := { s.regs with savedHdr := w } } ∧
       ∀ j < 32, w.getLsbD j = (s.regs.savedHdr.getLsbD j && decide (j ≠ 31)))

/-- R370, R371, R36: SOFT_RESET at any time.  (The destination during a job is log entry 5, the working
records log entry 15, the source and destination spaces log entry 29.) -/
def Obligations.SoftReset : Prop :=
  ∀ (s : State) (x : BitVec 30) (b : Bool),
    ∃ t, exec (.ctrlSoftReset x b) s = .next t ∧
      t.regs = { status := 0, srcLen := 0, dstLen := 0, srcUsed := 0, dstUsed := 0,
                 savedHdr := s.regs.savedHdr &&& 0x7FFFFFFF#32 } ∧
      t.phase = .idle ∧ t.sp = 0 ∧ t.off = 0 ∧ t.ctl = .idle ∧ t.src = s.src ∧ t.host = s.host ∧ t.direct = s.direct ∧
      t.hostData = s.hostData ∧ (s.busy = false → t.dst = s.dst) ∧
      ∀ a, Memory.read t.dst a = Memory.read s.dst a ∨ Memory.read t.dst a = Memory.read s.dst0 a

/-! ### Faults -/

/-- R341, R342, R343: whatever computation of the engine raises a cause, the outcome is a next state with the fault taken. -/
def Obligations.FaultAction : Prop :=
  ∀ (m : Eng Unit) (s u : State) (c : Cause), m s = .error (.raise c) u → c ≠ .e47 →
    ∃ t, settle m s = .next t ∧ FaultTaken c.cls.number c.number u t

/-- R106, R342, R276: the rows whose meaning is a fault take it, in every state; for the early stop E52 (`k >= 27`) it is the benign
end of R345. -/
def Obligations.IllegalRowsFault : Prop :=
  ∀ s : State,
    (∀ x m y, Faults 1 1 (.streamHeaderBadMagic x m y) s) ∧
    (∀ x r y, Faults 1 2 (.streamHeaderBadReserved x r y) s) ∧
    (∀ r u c f, Faults 1 3 (.streamHeaderBadFamily r u c f) s) ∧
    Faults 2 4 .streamHeaderTruncated s ∧
    (∀ e, Faults 1 5 (.krakenBhBadSentinel e) s) ∧
    Faults 1 6 .lznaBhBad s ∧
    (∀ r z, Faults 1 21 (.chunkCopyLongBad r z) s) ∧
    (∀ l x, Faults 1 26 (.chunkType6 l x) s) ∧
    (∀ l x, Faults 1 26 (.chunkType7 l x) s) ∧
    (∀ x, Faults 1 42 (.lzFlagBad x) s) ∧
    (∀ (k : BitVec 5) (l : BitVec 3), 27 ≤ k.toNat → Faults 5 52 (.lzOffsetEarlyStop k l) s)

/-! ### Headers -/

/-- R161, R36: a legal stream header is written to SH and SAVED_HDR. -/
def Obligations.StreamHeaders : Prop :=
  ∀ (s : State) (r u c : Bool),
    let read (fam : Family) (code : Nat) : Host.Outcome State Fault Refusal := .next
      { s with
        sh := { family := fam, restart := r, uncompressed := u, useChecksums := c },
        regs := { s.regs with
          savedHdr := BitVec.ofNat 32 (code + 128 * c.toNat + 256 * u.toNat + 512 * r.toNat + 2147483648) },
        loc := { s.loc with s := s.loc.s + 2 }, ctl := .blockEntry }
    exec (.streamHeaderLzna r u c) s = read .lzna 5 ∧
    exec (.streamHeaderKraken r u c) s = read .kraken 6 ∧
    exec (.streamHeaderMermaid r u c) s = read .mermaid 10 ∧
    exec (.streamHeaderBitknit r u c) s = read .bitknit 11 ∧
    exec (.streamHeaderLeviathan r u c) s = read .leviathan 12

/-- R165, R167, R170, R172 to R174, R341: the block headers of both layouts, the whole-match fill apart, and the headers cut short
(E07).  (That a fill or raw header leaves the flags is the model's choice, log entry 21; that a normal header's BH is written before
its checksum bytes are asked for is the pseudocode of R165 for the one layout and the model's reading for the other, log entries 27
and 24.) -/
def Obligations.BlockHeaders : Prop :=
  (∀ (s : State) (x : BitVec 4) (flag2 flag1 : Bool) (size : BitVec 18) (ck : BitVec 24) (k : Byte),
     let read (bh : BlockHeader) (n : Nat) : Host.Outcome State Fault Refusal :=
       .next { s with bh := bh, loc := { s.loc with s := s.loc.s + n }, ctl := .blockBody }
     exec (.krakenBhNormal x flag2 flag1 size) s = read
       { compressedSize := BitVec.ofNat 32 (size.toNat + 1), checksum := 0, flag1 := flag1, flag2 := flag2,
         wholeMatchDistance := 0, kind := .coded } 3 ∧
     exec (.krakenBhNormalCk x flag2 flag1 size ck) s = read
       { compressedSize := BitVec.ofNat 32 (size.toNat + 1), checksum := BitVec.ofNat 32 ck.toNat, flag1 := flag1,
         flag2 := flag2, wholeMatchDistance := 0, kind := .coded } 6 ∧
     exec (.krakenBhFill k) s = read
       { s.bh with compressedSize := 0, checksum := BitVec.ofNat 32 k.toNat, wholeMatchDistance := 0, kind := .fill } 4) ∧
  (∀ (s : State) (flag2 flag1 : Bool) (size : BitVec 14) (ck : BitVec 24) (k : Byte),
     let read (bh : BlockHeader) (n : Nat) : Host.Outcome State Fault Refusal :=
       .next { s with bh := bh, loc := { s.loc with s := s.loc.s + n }, ctl := .blockBody }
     exec (.lznaBhNormal flag2 flag1 size) s = read
       { compressedSize := BitVec.ofNat 32 (size.toNat + 1), checksum := 0, flag1 := flag1, flag2 := flag2,
         wholeMatchDistance := 0, kind := .coded } 2 ∧
     exec (.lznaBhNormalCk flag2 flag1 size ck) s = read
       { compressedSize := BitVec.ofNat 32 (size.toNat + 1), checksum := BitVec.ofNat 32 ck.toNat, flag1 := flag1,
         flag2 := flag2, wholeMatchDistance := 0, kind := .coded } 5 ∧
     exec (.lznaBhMemset k) s = read
       { s.bh with compressedSize := 0, checksum := BitVec.ofNat 32 k.toNat, wholeMatchDistance := 0, kind := .fill } 3 ∧
     exec .lznaBhRaw s = read
       { s.bh with compressedSize := BitVec.ofNat 32 s.loc.bs, checksum := 0, wholeMatchDistance := 0, kind := .raw } 2) ∧
  (∀ s : State,
     let p := s.loc.s
     let v : BitVec 24 := srcValue s.src p ++ srcValue s.src (p + 1) ++ srcValue s.src (p + 2)
     let size := v.extractLsb' 0 18
     (p + 3 ≤ s.srcLen → size ≠ 0x3FFFF#18 →
       ∃ t, exec .krakenBhTruncated s = .next t ∧
         FaultTaken 2 7 { s with bh := { compressedSize := BitVec.ofNat 32 (size.toNat + 1), checksum := 0, flag1 := v.getLsbD 18,
                                         flag2 := v.getLsbD 19, wholeMatchDistance := 0, kind := .coded } } t) ∧
     (s.srcLen < p + 3 ∨ size = 0x3FFFF#18 → Faults 2 7 .krakenBhTruncated s)) ∧
  (∀ s : State, s.direct = [] → s.ctl = .blockHeader → s.sh.family = .lzna ∨ s.sh.family = .bitknit →
     let p := s.loc.s
     let v : BitVec 16 := srcValue s.src p ++ srcValue s.src (p + 1)
     let size := v.extractLsb' 0 14
     (s.srcLen < p + 2 → StepFaults 2 7 s) ∧
     (s.sh.useChecksums = true → p + 2 ≤ s.srcLen → s.srcLen < p + 5 → size ≠ 0x3FFF#14 →
       ∃ t, step s = .next t ∧
         FaultTaken 2 7 { s with bh := { compressedSize := BitVec.ofNat 32 (size.toNat + 1), checksum := 0, flag1 := v.getLsbD 14,
                                         flag2 := v.getLsbD 15, wholeMatchDistance := 0, kind := .coded } } t) ∧
     (s.srcLen = p + 2 → v = 0x7FFF#16 → StepFaults 2 7 s))

/-- R172, R173, `ctl = 0`: E12 with no codec supplied; with one, E55 where it fails, E07 where the header bytes it consumed run past
the source, else the fill at the distance it gives (log entries 1, 18 and 21). -/
def Obligations.LznaWholeMatch : Prop :=
  ∀ s : State,
    match Config.lznaWholeMatchCodec with
    | none => Faults 4 12 .lznaBhWholeMatch s
    | some f =>
      match f (srcValues s.src s.loc.s (s.srcLen - s.loc.s)) with
      | .fail => Faults 1 55 .lznaBhWholeMatch s
      | .distance dist _ n =>
        (s.loc.s + n ≤ s.srcLen →
          exec .lznaBhWholeMatch s = .next
            { s with bh := { s.bh with compressedSize := 0, checksum := 0, wholeMatchDistance := dist, kind := .fill },
                     loc := { s.loc with s := s.loc.s + n }, ctl := .blockBody }) ∧
        (s.srcLen < s.loc.s + n → Faults 2 7 .lznaBhWholeMatch s)

/-- R310, R319 to R321: the sub-chunk headers, where they complete. -/
def Obligations.SubchunkHeaders : Prop :=
  ∀ s : State,
    (∀ x, exec (.quantumEntropy x) s = .next
      { s with loc := { s.loc with cp := s.loc.p, cend := s.loc.e, cap := s.loc.cnt, dest := .entropy }, ctl := .chunk }) ∧
    (∀ (m : BitVec 4) (u : BitVec 19), s.loc.p + 3 + u.toNat ≤ s.loc.e → u.toNat < s.loc.cnt →
      exec (.quantumLz m u) s = .next
        { s with loc := { s.loc with p := s.loc.p + 3, mode := m.toNat, lp := s.loc.p + 3, q := s.loc.p + 3 + u.toNat },
                 ctl := .tableStart }) ∧
    (∀ u : BitVec 19, s.loc.p + 3 + u.toNat ≤ s.loc.e → u.toNat = s.loc.cnt → s.loc.e ≤ s.srcLen →
      s.loc.d + s.loc.cnt ≤ s.dstLen →
      ∃ t, exec (.quantumStored u) s = .next t ∧
        t = { s with dst := t.dst, ctl := .quantumLoop,
                     loc := { s.loc with p := s.loc.p + 3 + u.toNat, d := s.loc.d + s.loc.cnt } } ∧
        Memory.Stored s.dst s.loc.d s.loc.cnt (fun j => srcValue s.src (s.loc.p + 3 + j)) t.dst)

/-- R310, R321: the sub-chunk headers' faults: E16 where the payload passes the quantum's end, then E17. -/
def Obligations.SubchunkFaults : Prop :=
  ∀ (s : State) (m : BitVec 4) (u : BitVec 19),
    let s' : State := { s with loc := { s.loc with p := s.loc.p + 3 } }
    (s.loc.e < s.loc.p + 3 + u.toNat →
      (∃ t, exec (.quantumLz m u) s = .next t ∧ FaultTaken 2 16 s' t) ∧
      (∃ t, exec (.quantumStored u) s = .next t ∧ FaultTaken 2 16 s' t)) ∧
    (s.loc.p + 3 + u.toNat ≤ s.loc.e → s.loc.cnt < u.toNat →
      (∃ t, exec (.quantumLz m u) s = .next t ∧ FaultTaken 1 17 s' t) ∧
      (∃ t, exec (.quantumStored u) s = .next t ∧ FaultTaken 1 17 s' t)) ∧
    (s.loc.p + 3 + u.toNat ≤ s.loc.e → u.toNat = s.loc.cnt → m ≠ 0 →
      ∃ t, exec (.quantumLz m u) s = .next t ∧ FaultTaken 1 17 s' t)

/-! ### Chunks -/

/-- R233 to R235, R243: a copy chunk that fits gives its caller the bytes that follow its header. -/
def Obligations.CopyChunks : Prop :=
  ∀ s : State,
    (∀ z : BitVec 12, s.copyFits 2 z.toNat → s.accepts (s.copied 2 z.toNat) (2 + z.toNat) →
      ∃ t, exec (.chunkCopyShort z) s = .next t ∧ s.Delivered (s.copied 2 z.toNat) (2 + z.toNat) t) ∧
    (∀ z : BitVec 18, s.copyFits 3 z.toNat → s.accepts (s.copied 3 z.toNat) (3 + z.toNat) →
      ∃ t, exec (.chunkCopyLong z) s = .next t ∧ s.Delivered (s.copied 3 z.toNat) (3 + z.toNat) t)

/-- R231, R234 to R238, R344: chunks that do not fit.  A range of fewer than 2 bytes (E19); a header that its range cuts short (E20).
A copy chunk: the capacity (E22) before the range (E23).  A compressed chunk: E24 (long layout), then the range (E23), then the
capacity (E25). -/
def Obligations.ChunkSizeFaults : Prop :=
  (∀ s : State,
     (∀ z : BitVec 12,
       (s.loc.cap < z.toNat → Faults 1 22 (.chunkCopyShort z) s) ∧
       (z.toNat ≤ s.loc.cap → s.loc.cend < s.loc.cp + 2 + z.toNat → Faults 2 23 (.chunkCopyShort z) s)) ∧
     (∀ z : BitVec 18,
       (s.loc.cap < z.toNat → Faults 1 22 (.chunkCopyLong z) s) ∧
       (z.toNat ≤ s.loc.cap → s.loc.cend < s.loc.cp + 3 + z.toNat → Faults 2 23 (.chunkCopyLong z) s))) ∧
  (∀ (s : State) (i : Instr) (hdr srcSize dstSize : Nat),
     ((∃ d z : BitVec 10, (i = .chunkTansShort d z ∨ i = .chunkHuff2Short d z ∨ i = .chunkRleShort d z ∨
         i = .chunkHuff4Short d z ∨ i = .chunkRecursiveShort d z) ∧
         hdr = 3 ∧ srcSize = z.toNat ∧ dstSize = z.toNat + d.toNat + 1) ∨
      (∃ d z : BitVec 18, (i = .chunkTansLong d z ∨ i = .chunkHuff2Long d z ∨ i = .chunkRleLong d z ∨
         i = .chunkHuff4Long d z ∨ i = .chunkRecursiveLong d z) ∧
         hdr = 5 ∧ srcSize = z.toNat ∧ dstSize = d.toNat + 1)) →
     (dstSize ≤ srcSize → Faults 1 24 i s) ∧
     (srcSize < dstSize → s.loc.cend < s.loc.cp + hdr + srcSize → Faults 2 23 i s) ∧
     (srcSize < dstSize → s.loc.cp + hdr + srcSize ≤ s.loc.cend → s.loc.cap < dstSize → Faults 1 25 i s)) ∧
  (∀ s : State, s.direct = [] → s.ctl = .chunk → s.loc.cend ≤ s.srcLen →
     let b := (srcValue s.src s.loc.cp).toNat
     let type := b / 16 % 8
     let hdr := if type = 0 then 3 else if 128 ≤ b then 3 else 5
     (s.loc.cend < s.loc.cp + 2 → StepFaults 2 19 s) ∧
     (s.loc.cp + 2 ≤ s.loc.cend → s.loc.cend < s.loc.cp + hdr → type ≤ 5 → ¬(type = 0 ∧ 128 ≤ b) → StepFaults 2 20 s))

/-- R319, R267, R270: the caller's check of a copy chunk that fits: E18, E41 and E43 (`State.CallerFault`), after what the caller wrote
before the check.  (The same checks on a Huffman chunk's output: `CodeLengthsDone`.) -/
def Obligations.ChunkCallerFaults : Prop :=
  ∀ (s : State) (i : Instr) (hdr size : Nat),
    ((∃ z : BitVec 12, i = .chunkCopyShort z ∧ hdr = 2 ∧ size = z.toNat) ∨
     (∃ z : BitVec 18, i = .chunkCopyLong z ∧ hdr = 3 ∧ size = z.toNat)) →
    s.copyFits hdr size → s.rejects (s.copied hdr size) (hdr + size) →
    ∃ t, exec i s = .next t ∧ s.CallerFault (s.copied hdr size) (hdr + size) t

/-- R239, R191, R192: a Huffman chunk whose payload fits: the cursor stands at the payload, the code table is empty, the selector
comes next. -/
def Obligations.HuffChunks : Prop :=
  ∀ s : State, s.loc.cend ≤ s.srcLen →
    (∀ d z : BitVec 10, s.payloadFits 3 z.toNat (z.toNat + d.toNat + 1) →
      exec (.chunkHuff2Short d z) s = .next (s.huffStarted 2 3 z.toNat (z.toNat + d.toNat + 1)) ∧
      exec (.chunkHuff4Short d z) s = .next (s.huffStarted 4 3 z.toNat (z.toNat + d.toNat + 1))) ∧
    (∀ d z : BitVec 18, z.toNat < d.toNat + 1 → s.payloadFits 5 z.toNat (d.toNat + 1) →
      exec (.chunkHuff2Long d z) s = .next (s.huffStarted 2 5 z.toNat (d.toNat + 1)) ∧
      exec (.chunkHuff4Long d z) s = .next (s.huffStarted 4 5 z.toNat (d.toNat + 1)))

/-- R241: chunk types 1, 3 and 5 are legal and fault E27 once their sizes are found to fit. -/
def Obligations.UnsupportedChunks : Prop :=
  ∀ s : State,
    (∀ d z : BitVec 10, s.payloadFits 3 z.toNat (z.toNat + d.toNat + 1) →
      Faults 4 27 (.chunkTansShort d z) s ∧ Faults 4 27 (.chunkRleShort d z) s ∧
      Faults 4 27 (.chunkRecursiveShort d z) s) ∧
    (∀ d z : BitVec 18, z.toNat < d.toNat + 1 → s.payloadFits 5 z.toNat (d.toNat + 1) →
      Faults 4 27 (.chunkTansLong d z) s ∧ Faults 4 27 (.chunkRleLong d z) s ∧
      Faults 4 27 (.chunkRecursiveLong d z) s)

/-! ### Entropy selector and code lengths -/

/-- R191: the selectors, read from a cursor with two valid bits or more. -/
def Obligations.EntropySelectors : Prop :=
  ∀ s : State, s.a.sound → s.a.fill ≤ 22 →
    (s.a.reads s.source [false, true] →
      exec .entropySelGamma s = .next { s with a := s.a.drop 2, ctl := .gammaHeader }) ∧
    (s.a.reads s.source [false, false] →
      exec .entropySelSparse s = .next { s with a := s.a.drop 2, ctl := .sparse }) ∧
    (s.a.reads s.source [true, true] →
      ∃ t, exec .entropySelBad s = .next t ∧ FaultTaken 1 29 { s with a := s.a.drop 2 } t)

/-- R191, R204, R205, R206: the Golomb-Rice selector: E56 with no reader supplied; with one, its insertions and the bits it reads
after the two fields, then E38 where it fails, E54 where it misuses the cursor, and the end of the code-length read where it gives
symbols.  (That the 2-bit field is kept in `forced_bits` is log entry 30.  `Advanced` says which bits the cursor reads
next, not how far it is refilled, which is log entry 36.) -/
def Obligations.GolombRice : Prop :=
  ∀ s : State, s.a.sound → s.a.fill ≤ 12 → s.a.reads s.source [true, false] →
    match Config.golombRiceReader with
    | none => ∃ t, exec .entropySelGolombRice s = .next t ∧ FaultTaken 4 56 { s with a := s.a.drop 2 } t
    | some f =>
      let c := s.a.drop 2
      let answer := f { cursor := c, bytes := srcValues s.src c.lo (c.hi - c.lo), table := s.ct,
                        bits2Value := Config.bits2Value, bits2Length := Config.bits2Length }
      (∀ x ∈ answer.inserts, 1 ≤ x.2 ∧ x.2 ≤ 11) → answer.inserts.length ≤ 256 →
        (answer.inserts = [] ∨ s.ct.codePrefix = firstSlots) → (answer.bits = 0 ∨ s.a.dir = .fwd) →
        ∃ v, s.a.Advanced s.source (12 + answer.bits) v ∧
          let s' : State := { s with a := v, ct := s.ct.insertAll answer.inserts,
                                     tmp := { s.tmp with forcedBits := (c.window >>> 30).setWidth 2 } }
          (answer.result = .fail → ∃ t, exec .entropySelGolombRice s = .next t ∧ FaultTaken 1 38 s' t) ∧
          (answer.result = .misuse → ∃ t, exec .entropySelGolombRice s = .next t ∧ FaultTaken 6 54 s' t) ∧
          (∀ n, answer.result = .symbols (n + 1) → (c.drop 2).window >>> 24 ≠ 0 →
            exec .entropySelGolombRice s = .next { s' with loc := { s.loc with num := n + 1 }, ctl := .codesDone })

/-- R200, R201: the sparse path's counts 0 (E35) and 1.  R202: a width above 4 faults E36. -/
def Obligations.SparseShort : Prop :=
  (∀ s : State, s.a.sound →
     (s.a.fill ≤ 16 → s.a.reads s.source (bitsOf 0#8) →
       ∃ t, exec .sparseZero s = .next t ∧ FaultTaken 1 35 { s with a := s.a.drop 8 } t) ∧
     (∀ b : Byte, s.a.fill ≤ 8 → s.a.reads s.source (bitsOf 1#8 ++ bitsOf b) →
       ∃ t, exec (.sparseOne b) s = .next t ∧
         t = { s with a := s.a.drop 16, ct := { s.ct with syms := t.ct.syms }, loc := { s.loc with num := 1 },
                      ctl := .codesDone } ∧
         Memory.Stored s.ct.syms 0 1 (fun _ => b) t.ct.syms)) ∧
  (∀ (s : State) (c : Byte) (w : BitVec 3), s.a.sound → s.a.fill ≤ 13 → 2 ≤ c.toNat → 4 < w.toNat →
     s.a.reads s.source (bitsOf c ++ bitsOf w) →
     ∃ t, exec (.sparseMany c w []) s = .next t ∧ FaultTaken 1 36 { s with a := (s.a.drop 8).drop 3 } t)

/-- R202, R193: the sparse path with several symbols: with all lengths legal, the symbols are inserted in order; at the first length
above 11, E37 with the symbols before it inserted. -/
def Obligations.SparseMany : Prop :=
  ∀ (s : State) (c : Byte) (w : BitVec 3) (pairs : List (Byte × BitVec 4)) (bits : Bits),
    s.a.sound → s.a.fill ≤ 13 → s.a.dir = .fwd →
    (Instr.sparseMany c w pairs).wf = true → w.toNat ≤ 4 →
    encode (.sparseMany c w pairs) = some bits → s.a.reads s.source bits → s.ct.codePrefix = firstSlots →
    ((∀ x ∈ pairs, x.2.toNat + 1 ≤ 11) →
      ∃ t, exec (.sparseMany c w pairs) s = .next t ∧
        t = { s with a := t.a, ct := s.ct.insertPairs pairs, loc := { s.loc with num := c.toNat }, ctl := .codesDone } ∧
        s.a.Advanced s.source bits.length t.a) ∧
    (∀ (good rest : List (Byte × BitVec 4)) (sym : Byte) (l : BitVec 4), pairs = good ++ (sym, l) :: rest →
      (∀ x ∈ good, x.2.toNat + 1 ≤ 11) → 11 < l.toNat + 1 →
      ∃ v t, s.a.Advanced s.source (11 + (8 + w.toNat) * (good.length + 1)) v ∧
        exec (.sparseMany c w pairs) s = .next t ∧ FaultTaken 1 37 { s with a := v, ct := s.ct.insertPairs good } t)

/-- R194: the gamma path's header. -/
def Obligations.GammaHeader : Prop :=
  ∀ (s : State) (f : BitVec 2) (k : Bool), s.a.sound → s.a.fill ≤ 22 → s.a.dir = .fwd →
    s.a.reads s.source (bitsOf f ++ [k]) →
    ∃ t, exec (.gammaHeader f k) s = .next t ∧
      t = { s with a := t.a, tmp := { avgBitsX4 := 32, sym := 0, numSymbols := 0, forcedBits := f },
                   ctl := if k then .gammaRun else .gammaZero } ∧
      s.a.Advanced s.source 3 t.a ∧ t.a.fill ≤ 1

/-- R195: the zero run: `z + 1` symbols get no code; E30 where the window's top byte is 0. -/
def Obligations.GammaZeroRun : Prop :=
  ∀ (s : State) (n b : Nat), s.a.sound → s.a.fill ≤ 1 → wfCode n (n + 1) b = true →
    s.a.reads s.source (zerosOneBits n (n + 1) b) →
    (n ≤ 7 →
      let sym := s.tmp.sym + (2 ^ (n + 1) + b - 2) + 1
      exec (.gammaZeroRun n b) s = .next
        { s with a := s.a.drop (2 * n + 2), tmp := { s.tmp with sym := sym },
                 ctl := if 256 ≤ sym then .gammaFinish else .gammaRun }) ∧
    (8 ≤ n → Faults 1 30 (.gammaZeroRun n b) s)

/-- R196: the run count; E30 where the refilled window's top byte is 0, E31 where the run passes symbol 255. -/
def Obligations.GammaRunCount : Prop :=
  ∀ (s : State) (n b : Nat), s.a.sound → s.a.dir = .fwd → wfCode n (n + 1) b = true →
    s.a.reads s.source (zerosOneBits n (n + 1) b) →
    let run := 2 ^ (n + 1) + b - 2 + 1
    (n ≤ 7 → s.tmp.sym + run ≤ 256 →
      ∃ t, exec (.gammaRunCount n b) s = .next t ∧
        t = { s with a := t.a, tmp := { s.tmp with numSymbols := s.tmp.numSymbols + run },
                     loc := { s.loc with runLeft := run }, ctl := .gammaResidual } ∧
        s.a.AdvancedFull s.source (2 * n + 2) t.a) ∧
    (n ≤ 7 → 256 < s.tmp.sym + run →
      ∃ c t, s.a.Advanced s.source (2 * n + 2) c ∧ exec (.gammaRunCount n b) s = .next t ∧
        FaultTaken 1 31 { s with a := c } t) ∧
    (8 ≤ n →
      ∃ c t, s.a.AdvancedFull s.source 0 c ∧ exec (.gammaRunCount n b) s = .next t ∧ FaultTaken 1 30 { s with a := c } t)

/-- R197, R198, R193: one code length: the residual `v = q * 2^F + b`, the zigzag of it added to the prediction, the predictor's
update and the insertion; E33 where the length is outside [1, 11].  A residual with more than `20 >> F` leading zeros is below the
threshold and faults E32.  (That `>> 2` rounds down on a negative number is the model's choice, log entry 35.) -/
def Obligations.GammaResidual : Prop :=
  (∀ (s : State) (q b : Nat), s.a.filled → s.a.dir = .fwd →
     let f := s.tmp.forcedBits.toNat
     let v := q * 2 ^ f + b
     let zigzag : Int := if v % 2 = 0 then (v / 2 : Nat) else -((v + 1) / 2 : Nat)
     let len := zigzag + (s.tmp.avgBitsX4 + 2) / 4
     b < 2 ^ f → q ≤ 20 / 2 ^ f → s.a.reads s.source (zerosOneBits q f b) →
     (1 ≤ len → len ≤ 11 → (s.ct.codePrefix[len.toNat]?.getD 0).toNat < 1280 →
       ∃ t, exec (.gammaResidual s.tmp.forcedBits q b) s = .next t ∧
         t = { s with
           a := t.a,
           tmp := { s.tmp with avgBitsX4 := len + (3 * s.tmp.avgBitsX4 + 2) / 4, sym := s.tmp.sym + 1 },
           ct := s.ct.insert (BitVec.ofNat 8 s.tmp.sym) len.toNat,
           loc := { s.loc with runLeft := s.loc.runLeft - 1 },
           ctl := if 1 < s.loc.runLeft then .gammaResidual
                  else if s.tmp.sym + 1 = 256 then .gammaFinish else .gammaZero } ∧
         s.a.AdvancedFull s.source (q + f + 1) t.a) ∧
     (len < 1 ∨ 11 < len →
       ∃ t, exec (.gammaResidual s.tmp.forcedBits q b) s = .next t ∧
         FaultTaken 1 33 { s with a := s.a.drop (q + f + 1) } t)) ∧
  (∀ (s : State) (q b : Nat), s.a.filled → 20 / 2 ^ s.tmp.forcedBits.toNat < q →
     wfCode q s.tmp.forcedBits.toNat b = true → s.a.reads s.source (zerosOneBits q s.tmp.forcedBits.toNat b) →
     Faults 1 32 (.gammaResidual s.tmp.forcedBits q b) s)

/-! ### Variable-length integer codes -/

/-- R100, R128: the gamma code; E54 where its width is 24 or more. -/
def Obligations.GammaCode : Prop :=
  ∀ (s : State) (c : CSel) (n b : Nat), (s.cursor c).filled → wfCode n (n + 1) b = true →
    (s.cursor c).reads s.source (zerosOneBits n (n + 1) b) →
    (n ≤ 10 → exec (.gammaCode c n b) s =
      .next ((s.setCursor c ((s.cursor c).drop (2 * n + 2))).setRes true ((2 ^ (n + 1) + b - 2 : Nat) : Int))) ∧
    (11 ≤ n → Faults 6 54 (.gammaCode c n b) s)

/-- R101, R102, R129, R130: the distance codes, read forward from cursor A and backward from cursor B. -/
def Obligations.DistanceCodes : Prop :=
  ∀ (s : State) (c : CSel) (cb : Byte) (x : Nat), (s.cursor c).filled → (s.cursor c).dir = selDir c →
    (∀ n, n = cb.toNat / 16 + 4 → cb.toNat < 0xF0 → x < 2 ^ n → (s.cursor c).reads s.source (bitsOfNat n x) →
      ∃ c', (s.cursor c).AdvancedFull s.source n c' ∧ exec (.distanceSmall c cb x) s =
        .next ((s.setCursor c c').setRes true (((2 ^ n + x) * 16 + cb.toNat % 16 - 248 : Nat) : Int))) ∧
    (∀ (n : Nat) (y : BitVec 12), n = cb.toNat - 0xF0 + 4 → 0xF0 ≤ cb.toNat → x < 2 ^ n →
      (s.cursor c).reads s.source (bitsOfNat n x ++ bitsOf y) →
      ∃ c', (s.cursor c).AdvancedFull s.source (n + 12) c' ∧ exec (.distanceLarge c cb x y) s =
        .next ((s.setCursor c c').setRes true
          (((8322816 + (2 ^ n + x) * 4096 + y.toNat) % 2 ^ 32 : Nat) : Int)))

/-- R103, R131, R132: the length code; more than 12 leading zeros answer `ok = false` and leave the cursor. -/
def Obligations.LengthCode : Prop :=
  ∀ (s : State) (c : CSel) (n b : Nat), (s.cursor c).filled → (s.cursor c).dir = selDir c →
    wfCode n (n + 6) b = true → (s.cursor c).reads s.source (zerosOneBits n (n + 6) b) →
    (n ≤ 12 →
      ∃ c', (s.cursor c).AdvancedFull s.source (2 * n + 7) c' ∧ exec (.lengthCode c n b) s =
        .next ((s.setCursor c c').setRes true ((2 ^ (n + 6) + b - 64 : Nat) : Int))) ∧
    (12 < n → exec (.lengthCode c n b) s = .next (s.setRes false 0))

/-- R104, R274: the side count; E45 where the window is below 0x2000. -/
def Obligations.SideCount : Prop :=
  ∀ (s : State) (n b : Nat), s.b.filled → s.b.dir = .bwd → wfCode n n b = true →
    s.b.reads s.source (zerosOneBits n n b) →
    (n ≤ 18 →
      ∃ t, exec (.sideCountCode n b) s = .next t ∧
        t = { s with b := t.b, loc := { s.loc with sideCount := 2 ^ n + b - 1, idx := 0 }, ctl := .offsets } ∧
        s.b.AdvancedFull s.source (2 * n + 1) t.b) ∧
    (19 ≤ n → Faults 1 45 (.sideCountCode n b) s)

/-- R105, R133, R134: a field of up to 26 plain bits. -/
def Obligations.MoreThan24 : Prop :=
  ∀ (s : State) (c : CSel) (n b : Nat), (s.cursor c).filled → (s.cursor c).dir = selDir c → n ≤ 26 → b < 2 ^ n →
    (s.cursor c).reads s.source (bitsOfNat n b) →
    ∃ c', (s.cursor c).AdvancedFull s.source n c' ∧
      exec (.moreThan24 c n b) s = .next ((s.setCursor c c').setRes true (b : Int))

/-! ### LZ table bytes -/

/-- R264, R265, R268, R269: the flag byte is not consumed; a scaling selector is.  R99, R286: the packed lengths: `v + 3`, or the
next side value plus 255 plus 3; E50 where the side values are used up. -/
def Obligations.LzBytes : Prop :=
  (∀ (s : State) (x : BitVec 7),
     exec (.lzFlagOk x) s = .next
       { s with loc := { s.loc with cp := s.loc.lp, cend := s.loc.q, cap := s.loc.cnt, dest := .lit }, ctl := .chunk } ∧
     exec (.lzScalingPresent x) s = .next
       { s with lt := { s.lt with scaling := (128 + x.toNat) - 127 },
                loc := { s.loc with lp := s.loc.lp + 1, cp := s.loc.lp + 1, cend := s.loc.q, cap := s.lt.cmd.length,
                                    dest := .offs }, ctl := .chunk } ∧
     exec (.lzScalingAbsent x) s = .next
       { s with lt := { s.lt with scaling := 0 },
                loc := { s.loc with cp := s.loc.lp, cend := s.loc.q, cap := s.lt.cmd.length, dest := .offs },
                ctl := .chunk }) ∧
  (∀ s : State,
     (∀ v : Byte, exec (.lzLengthByte v) s = .next
       { s with lt := { s.lt with lens := s.lt.lens ++ [BitVec.ofNat 32 (v.toNat + 3)] },
                loc := { s.loc with idx := s.loc.idx + 1 } }) ∧
     (∀ w : Word, s.loc.sideUsed < s.loc.sideCount → s.lt.side[s.loc.sideUsed]? = some w →
       exec .lzLengthEscape s = .next
         { s with lt := { s.lt with lens := s.lt.lens ++ [BitVec.ofNat 32 (w.toNat + 255 + 3)] },
                  loc := { s.loc with idx := s.loc.idx + 1, sideUsed := s.loc.sideUsed + 1 } }) ∧
     (s.loc.sideCount ≤ s.loc.sideUsed → Faults 3 50 .lzLengthEscape s))

/-- R97, R275: a traditional offset, from cursor A for even indices and cursor B for odd ones, negated modulo 2^32. -/
def Obligations.LzTraditionalOffsets : Prop :=
  ∀ (s : State) (c : CSel) (x : Nat), c = (if s.loc.idx % 2 = 0 then CSel.a else CSel.b) → (s.cursor c).filled →
    (s.cursor c).dir = selDir c →
    let pushed (c' : Cursor) (v : Nat) : State :=
      { s.setCursor c c' with lt := { s.lt with offs := s.lt.offs ++ [-BitVec.ofNat 32 v] },
                              loc := { s.loc with idx := s.loc.idx + 1 } }
    (∀ (h l : BitVec 4) (n : Nat), h ≠ 0xF#4 → n = h.toNat + 4 → x < 2 ^ n →
      (s.cursor c).reads s.source (bitsOfNat n x) →
      ∃ c', (s.cursor c).AdvancedFull s.source n c' ∧
        exec (.lzOffsetTradSmall h l) s = .next (pushed c' ((2 ^ n + x) * 16 + l.toNat - 248))) ∧
    (∀ (m : BitVec 4) (n : Nat) (y : BitVec 12), n = m.toNat + 4 → x < 2 ^ n →
      (s.cursor c).reads s.source (bitsOfNat n x ++ bitsOf y) →
      ∃ c', (s.cursor c).AdvancedFull s.source (n + 12) c' ∧
        exec (.lzOffsetTradLarge m) s = .next (pushed c' (8322816 + (2 ^ n + x) * 4096 + y.toNat)))

/-- R98, R276: a scaled offset. -/
def Obligations.LzScaledOffsets : Prop :=
  ∀ (s : State) (c : CSel) (k : BitVec 5) (l : BitVec 3) (x : Nat),
    c = (if s.loc.idx % 2 = 0 then CSel.a else CSel.b) → (s.cursor c).filled → (s.cursor c).dir = selDir c →
    k.toNat ≤ 26 → x < 2 ^ k.toNat → (s.cursor c).reads s.source (bitsOfNat k.toNat x) →
    ∃ c' v, (s.cursor c).AdvancedFull s.source k.toNat c' ∧
      exec (.lzOffsetScaled k l) s = .next
        { s.setCursor c c' with lt := { s.lt with offs := s.lt.offs ++ [v] },
                                loc := { s.loc with idx := s.loc.idx + 1 } } ∧
      v.toInt = 8 - (((8 + l.toNat) * 2 ^ k.toNat + x : Nat) : Int)

/-! ### Cursor operations -/

/-- R121, R122: the two cursor initialisations, over any range: a byte outside the range is 0, and so is one past the source's end.
R123, R124, R136: a refill ends with `fill <= 0`, above -8 if it took a byte, and consumes no bit; with `fill > 24` it faults E54.
(A range that is no slice of the source is log entry 16.  The clauses on a refill do not ask for the cursor's direction, but for the
last one of its completion: that the operation pulls in its own direction whatever the cursor's is, its E54 included, is the model's
reading, log entry 17.) -/
def Obligations.CursorInitAndRefill : Prop :=
  (∀ (s : State) (c : CSel) (lo hi : Nat),
     let byte (i : Int) : Byte :=
       if (lo : Int) ≤ i ∧ i < (hi : Int) ∧ i < (s.srcLen : Int) then srcValue s.src i.toNat else 0
     exec (.cursorInitFwd c lo hi) s = .next (s.setCursor c
       { window := byte lo ++ byte (lo + 1) ++ byte (lo + 2) ++ 0#8, fillLevel := 0, pos := lo + 3, lo := lo, hi := hi,
         dir := .fwd }) ∧
     exec (.cursorInitBwd c lo hi) s = .next (s.setCursor c
       { window := byte (hi - 1) ++ byte (hi - 2) ++ byte (hi - 3) ++ 0#8, fillLevel := 0, pos := hi - 3, lo := lo, hi := hi,
         dir := .bwd })) ∧
  (∀ (s : State) (c : CSel) (i : Instr) (dir : Dir), (i = .refill c ∧ dir = .fwd) ∨ (i = .refillBackwards c ∧ dir = .bwd) →
     ((s.cursor c).fill ≤ 24 →
       ∃ c', exec i s = .next (s.setCursor c c') ∧ c'.fill ≤ 0 ∧ (0 < (s.cursor c).fill → -7 ≤ c'.fill) ∧
         ((s.cursor c).fill ≤ 0 → c' = s.cursor c) ∧
         ((s.cursor c).sound → (s.cursor c).dir = dir → (s.cursor c).AdvancedFull s.source 0 c')) ∧
     (24 < (s.cursor c).fill → Faults 6 54 i s))

/-- R125 to R127: the fixed-width reads: the window's top bits, with E54 where `n` is out of range or exceeds the valid bits,
`24 - fill` as an `i32` (R6, R23).  (The clauses on `read_bit` hold for a cursor of either direction, refilled forward: the model's
reading, log entry 17.) -/
def Obligations.CursorFixedReads : Prop :=
  ∀ (s : State) (c : CSel) (n : Nat),
    let v := s.cursor c
    let valid := i32 (24 - v.fill)
    (1 ≤ n → n ≤ 24 → (n : Int) ≤ valid →
      exec (.readBits c n) s = .next ((s.setCursor c (v.drop n)).setRes true (v.window >>> (32 - n)).toNat) ∧
      exec (.readBitsZero c n) s = .next ((s.setCursor c (v.drop n)).setRes true (v.window >>> (32 - n)).toNat)) ∧
    (¬(1 ≤ n ∧ n ≤ 24 ∧ (n : Int) ≤ valid) →
      Faults 6 54 (.readBits c n) s ∧ (n ≠ 0 → Faults 6 54 (.readBitsZero c n) s)) ∧
    exec (.readBitsZero c 0) s = .next (s.setRes true 0) ∧
    (1 ≤ valid →
      exec (.readBitNorefill c) s = .next ((s.setCursor c (v.drop 1)).setRes true (v.window >>> 31).toNat)) ∧
    (valid < 1 → Faults 6 54 (.readBitNorefill c) s) ∧
    (-2147483623 ≤ v.fill → v.fill ≤ 24 → ∃ v', v.refillDir .fwd s.source = .ok v' ∧
      exec (.readBit c) s = .next ((s.setCursor c (v'.drop 1)).setRes true (v'.window >>> 31).toNat)) ∧
    (v.fill < -2147483623 ∨ 24 < v.fill → Faults 6 54 (.readBit c) s)

/-- R128, R135: `read_gamma` by the window's leading zeros, and `consumed_pos`, which leaves the cursor.  (That `(24 - fill) >> 3` rounds
down where `fill > 24` is the model's choice, log entry 35.) -/
def Obligations.CursorGammaAndPosition : Prop :=
  ∀ (s : State) (c : CSel),
    let v := s.cursor c
    let width := 2 * clz32 v.window + 2
    let valid := i32 (24 - v.fill)
    (width < 24 → (width : Int) ≤ valid →
      exec (.readGamma c) s =
        .next ((s.setCursor c (v.drop width)).setRes true ((v.window.toNat / 2 ^ (32 - width) - 2 : Nat) : Int))) ∧
    (¬(width < 24 ∧ (width : Int) ≤ valid) → Faults 6 54 (.readGamma c) s) ∧
    (v.dir = .fwd → exec (.consumedPos c) s = .next (s.setRes true (v.pos - valid / 8))) ∧
    (v.dir = .bwd → exec (.consumedPos c) s = .next (s.setRes true (v.pos + valid / 8)))

/-- R129, R130: `read_distance` on a refilled cursor: `2^n` plus the window's top `n` bits stands where the rotate and mask of
the pseudocode put it, and the rest of the window shifts left.  On any cursor that the shift leaves with `fill > 24`, the refill
faults E54 (R123, R124) with the window and the fill level already written (R341).  (Log entry 17: each operation acts on a cursor of
either direction, and what it wrote before the fault stays.) -/
def Obligations.CursorDistance : Prop :=
  ∀ (s : State) (c : CSel) (cb : Byte) (i : Instr) (dir : Dir),
    (i = .readDistance c cb ∧ dir = .fwd) ∨ (i = .readDistanceB c cb ∧ dir = .bwd) →
    let v := s.cursor c
    let field (n : Nat) : Nat := 2 ^ n + v.window.toNat / 2 ^ (32 - n)
    (∀ n, v.filled → cb.toNat < 0xF0 → n = cb.toNat / 16 + 4 →
      ∃ v', (v.drop n).refillDir dir s.source = .ok v' ∧
        exec i s = .next ((s.setCursor c v').setRes true ((field n * 16 + cb.toNat % 16 - 248 : Nat) : Int))) ∧
    (∀ n, v.filled → 0xF0 ≤ cb.toNat → n = cb.toNat - 0xF0 + 4 →
      ∃ w v', (v.drop n).refillDir dir s.source = .ok w ∧ (w.drop 12).refillDir dir s.source = .ok v' ∧
        exec i s = .next ((s.setCursor c v').setRes true
          (((8322816 + field n * 4096 + w.window.toNat / 2 ^ 20) % 2 ^ 32 : Nat) : Int))) ∧
    (∀ n, n = (if cb.toNat < 0xF0 then cb.toNat / 16 + 4 else cb.toNat - 0xF0 + 4) →
      let v' : Cursor := { v with window := rotl32 (v.window ||| 1#32) n &&& ~~~BitVec.ofNat 32 (2 ^ (n + 1) - 1),
                                  fillLevel := v.fillLevel + BitVec.ofNat 32 n }
      24 < v'.fill → ∃ t, exec i s = .next t ∧ FaultTaken 6 54 (s.setCursor c v') t)

/-- R131 to R134: `read_length` and `read_more_than_24_bits` on a refilled cursor.  On any cursor: where `read_length`'s first shift
leaves `fill > 24`, its refill faults E54 with the shift written (R341), and a wide read of 1 to 24 bits that exceeds the valid bits
faults E54.  (Log entry 17, as for `CursorDistance`.) -/
def Obligations.CursorLengthAndWide : Prop :=
  ∀ (s : State) (c : CSel) (k : Nat) (len wide : Instr) (dir : Dir),
    (len = .readLength c ∧ wide = .readMoreThan24Bits c k ∧ dir = .fwd) ∨
      (len = .readLengthB c ∧ wide = .readMoreThan24BitsB c k ∧ dir = .bwd) →
    let v := s.cursor c
    let n := clz32 v.window
    (12 < n → exec len s = .next (s.setRes false 0)) ∧
    (v.filled → n ≤ 12 →
      ∃ w v', (v.drop n).refillDir dir s.source = .ok w ∧ (w.drop (n + 7)).refillDir dir s.source = .ok v' ∧
        exec len s =
          .next ((s.setCursor c v').setRes true ((w.window.toNat / 2 ^ (25 - n) - 64 : Nat) : Int))) ∧
    (n ≤ 12 → 24 < (v.drop n).fill → ∃ t, exec len s = .next t ∧ FaultTaken 6 54 (s.setCursor c (v.drop n)) t) ∧
    (v.filled → k ≤ 24 →
      ∃ v', (v.drop k).refillDir dir s.source = .ok v' ∧
        exec wide s = .next ((s.setCursor c v').setRes true ((v.window.toNat / 2 ^ (32 - k) : Nat) : Int))) ∧
    (v.filled → 24 < k → k ≤ 26 →
      ∃ w v', (v.drop 24).refillDir dir s.source = .ok w ∧ (w.drop (k - 24)).refillDir dir s.source = .ok v' ∧
        exec wide s = .next ((s.setCursor c v').setRes true
          ((v.window.toNat / 2 ^ 8 * 2 ^ (k - 24) + w.window.toNat / 2 ^ (56 - k) : Nat) : Int))) ∧
    (1 ≤ k → k ≤ 24 → i32 (24 - v.fill) < (k : Int) → Faults 6 54 wide s)

/-! ### The sequencer -/

/-- R301, R302, R303: a block step's start, the choice of the block size, and the copy of an uncompressed stream's block.  A host
access that still waits at a block step's start, or while no job runs, is counted down by one (log entry 7). -/
def Obligations.BlockStart : Prop :=
  ∀ s : State, s.direct = [] →
    (s.ctl = .blockStart → s.host = [] →
      step s = .next { s with loc := { s.loc with s := s.sp },
                              ctl := if s.off % 262144 = 0 then .streamHeader else .blockEntry }) ∧
    (∀ (n : Nat) (op : HostOp) (rest : List HostEvent), s.host = ⟨n + 1, op⟩ :: rest →
      (s.ctl = .blockStart →
        step s = .next { s with host := ⟨n, op⟩ :: rest, loc := { s.loc with s := s.sp },
                                ctl := if s.off % 262144 = 0 then .streamHeader else .blockEntry }) ∧
      (s.ctl = .idle → step s = .next { s with host := ⟨n, op⟩ :: rest })) ∧
    (s.ctl = .blockEntry →
      let bs := min (if s.sh.family = .lzna ∨ s.sh.family = .bitknit then 16384 else 262144) (s.dstLen - s.off)
      (s.sh.uncompressed = false →
        step s = .next { s with phase := .decodeBlock, loc := { s.loc with bs := bs }, ctl := .blockHeader }) ∧
      (s.sh.uncompressed = true → s.loc.s + bs ≤ s.srcLen →
        ∃ t, step s = .next t ∧
          t = { s with phase := .decodeBlock, dst := t.dst, loc := { s.loc with bs := bs, s := s.loc.s + bs },
                       ctl := .blockEnd } ∧
          Memory.Stored s.dst s.off bs (fun j => srcValue s.src (s.loc.s + j)) t.dst) ∧
      (s.sh.uncompressed = true → s.srcLen < s.loc.s + bs →
        ∃ t, step s = .next t ∧
          FaultTaken 2 10 { s with phase := .decodeBlock, loc := { s.loc with bs := bs } } t))

/-- R308, R309: the fills: a constant byte, or a copy from `dist` before, byte by byte; E11 where `dist` reaches before the
output. -/
def Obligations.FillBlocks : Prop :=
  ∀ s : State, s.direct = [] → s.ctl = .blockBody → s.bh.kind = .fill → s.off + s.loc.bs ≤ s.dstLen →
    let dist := s.bh.wholeMatchDistance.toNat
    (dist = 0 →
      ∃ t, step s = .next t ∧ t = { s with dst := t.dst, ctl := .blockEnd } ∧
        Memory.Stored s.dst s.off s.loc.bs (fun _ => BitVec.ofNat 8 s.bh.checksum.toNat) t.dst) ∧
    (1 ≤ dist → dist ≤ s.off →
      ∃ t, step s = .next t ∧ t = { s with dst := t.dst, ctl := .blockEnd } ∧
        (∀ j < s.loc.bs, Memory.read t.dst (s.off + j) = some (dstValue t.dst (s.off + j - dist))) ∧
        ∀ a, a < s.off ∨ s.off + s.loc.bs ≤ a → Memory.read t.dst a = Memory.read s.dst a) ∧
    (s.off < dist → StepFaults 1 11 s)

/-- R305, R306, R312, R314, R310: a block with a payload: E08, E09, the verbatim copy, E13, and the Kraken quantum. -/
def Obligations.PayloadBlocks : Prop :=
  ∀ s : State, s.direct = [] → s.ctl = .blockBody → s.bh.kind ≠ .fill →
    let size := s.bh.compressedSize.toNat
    (s.srcLen < s.loc.s + size → StepFaults 2 8 s) ∧
    (s.loc.s + size ≤ s.srcLen → s.loc.bs < size → StepFaults 1 9 s) ∧
    (s.loc.s + size ≤ s.srcLen → size = s.loc.bs → s.off + s.loc.bs ≤ s.dstLen →
      ∃ t, step s = .next t ∧
        t = { s with dst := t.dst, loc := { s.loc with s := s.loc.s + size }, ctl := .blockEnd } ∧
        Memory.Stored s.dst s.off s.loc.bs (fun j => srcValue s.src (s.loc.s + j)) t.dst) ∧
    (s.loc.s + size ≤ s.srcLen → size < s.loc.bs → s.sh.family ≠ .kraken → StepFaults 4 13 s) ∧
    (s.loc.s + size ≤ s.srcLen → size < s.loc.bs → s.sh.family = .kraken →
      step s = .next { s with loc := { s.loc with p := s.loc.s, e := s.loc.s + size, d := s.off },
                              ctl := .quantumLoop })

/-- R313, R315, R35: the end of a block step: `sp` and `off` move; the job ends with success at DST_LEN, else the next block step
starts, expecting a stream header at a multiple of 0x40000.  (SRC_USED holds `sp` modulo 2^32, log entry 9.) -/
def Obligations.BlockEnd : Prop :=
  ∀ s : State, s.direct = [] → s.ctl = .blockEnd →
    let off := s.off + s.loc.bs
    step s = .next
      (if off = s.dstLen then
        { s with sp := s.loc.s, off := off, phase := .finished, ctl := .idle,
                 regs := { s.regs with status := 2#32, srcUsed := BitVec.ofNat 32 s.loc.s, dstUsed := s.regs.dstLen } }
       else
        { s with sp := s.loc.s, off := off, ctl := .blockStart,
                 phase := if off % 262144 = 0 then .expectStreamHeader else s.phase })

/-- R310, R313: the quantum loop: the sub-chunk's size, E15, and E14 after the last sub-chunk. -/
def Obligations.QuantumLoop : Prop :=
  ∀ s : State, s.direct = [] → s.ctl = .quantumLoop →
    let stop := s.off + s.loc.bs
    let s' : State := { s with loc := { s.loc with cnt := min 131072 (stop - s.loc.d) } }
    let size := s.bh.compressedSize.toNat
    (s.loc.d < stop → s.loc.p + 4 ≤ s.loc.e → step s = .next { s' with ctl := .subHeader }) ∧
    (s.loc.d < stop → s.loc.e < s.loc.p + 4 → ∃ t, step s = .next t ∧ FaultTaken 2 15 s' t) ∧
    (stop ≤ s.loc.d → s.loc.p = s.loc.s + size →
      step s = .next { s with loc := { s.loc with s := s.loc.s + size }, ctl := .blockEnd }) ∧
    (stop ≤ s.loc.d → s.loc.p ≠ s.loc.s + size → StepFaults 3 14 s)

/-- R261 to R263, R272, R273: the start of `read_table` (E40, E41, the seed) and of `unpack_offsets` (E44, the two cursors).
(That `offs`, `lens` and `side` are emptied at that point is the model's choice, log entry 33.) -/
def Obligations.LzTableStart : Prop :=
  ∀ s : State, s.direct = [] →
    (s.ctl = .tableStart →
      (1 < s.loc.mode → StepFaults 1 40 s) ∧
      (s.loc.mode ≤ 1 → s.loc.q < s.loc.lp + 13 → StepFaults 2 41 s) ∧
      (s.loc.mode ≤ 1 → s.loc.lp + 13 ≤ s.loc.q → s.loc.d ≠ 0 → step s = .next { s with ctl := .lzFlag }) ∧
      (s.loc.mode ≤ 1 → s.loc.lp + 13 ≤ s.loc.q → s.loc.d = 0 → s.loc.q ≤ s.srcLen → 8 ≤ s.dstLen →
        ∃ t, step s = .next t ∧
          t = { s with dst := t.dst, loc := { s.loc with lp := s.loc.lp + 8 }, ctl := .lzFlag } ∧
          Memory.Stored s.dst 0 8 (fun j => srcValue s.src (s.loc.lp + j)) t.dst)) ∧
    (s.ctl = .unpackStart → s.loc.lp ≤ s.loc.q → s.loc.q ≤ s.srcLen →
      if (match Config.scratchOk with
          | none => true
          | some f => f s.lt.lit.length s.lt.cmd.length s.lt.offsPacked.length s.lt.lenPacked.length s.loc.cnt) then
        step s = .next
          { s with a := Cursor.initFwd s.source s.loc.lp s.loc.q, b := Cursor.initBwd s.source s.loc.lp s.loc.q,
                   lt := { s.lt with offs := [], lens := [], side := [] }, ctl := .sideCount }
      else StepFaults 4 44 s)

/-- R277, R278, R283: after the offsets: the scaled correction, computed exactly, with E51 where one leaves `i32`, and the bound
of the side count (E46).  At E51 the offsets below the one that faults are corrected (R289, R341; log entry 28). -/
def Obligations.OffsetsDone : Prop :=
  ∀ (s : State) (xs : List Byte), s.direct = [] → s.ctl = .offsets → s.lt.offsPacked.length ≤ s.loc.idx →
    s.lt.extra.getD [] = xs → s.lt.offs.length = xs.length ∨ s.lt.scaling ≤ 1 →
    let exact : List Int := List.zipWith (fun o x => (s.lt.scaling : Int) * o.toInt - (x.toNat : Int)) s.lt.offs xs
    let offs := if 2 ≤ s.lt.scaling then exact.map (BitVec.ofInt 32) else s.lt.offs
    let fits (v : Int) : Prop := -2147483648 ≤ v ∧ v ≤ 2147483647
    let inRange := s.lt.scaling ≤ 1 ∨ ∀ v ∈ exact, fits v
    let s' : State := { s with lt := { s.lt with offs := offs } }
    (inRange → s.loc.sideCount ≤ 512 →
      step s = .next { s' with loc := { s.loc with idx := 0 }, ctl := .sideValues }) ∧
    (inRange → 512 < s.loc.sideCount → ∃ t, step s = .next t ∧ FaultTaken 1 46 s' t) ∧
    (∀ (k : Nat) (v : Int), 2 ≤ s.lt.scaling → exact[k]? = some v → ¬fits v → (∀ u ∈ exact.take k, fits u) →
      ∃ t, step s = .next t ∧
        FaultTaken 1 51
          { s with lt := { s.lt with offs := (exact.take k).map (BitVec.ofInt 32) ++ s.lt.offs.drop k } } t)

/-- R284, R285, R287: the side buffer: a value stored or E48; the cursors meet or E49; every side value used or E50. -/
def Obligations.SideBuffer : Prop :=
  ∀ s : State, s.direct = [] →
    (s.ctl = .sideStore → s.resOk = true →
      step s = .next { s with lt := { s.lt with side := s.lt.side ++ [BitVec.ofInt 32 s.res] },
                              loc := { s.loc with idx := s.loc.idx + 1 }, ctl := .sideValues }) ∧
    (s.ctl = .sideStore → s.resOk = false → StepFaults 1 48 s) ∧
    (s.ctl = .sideValues → s.loc.sideCount ≤ s.loc.idx → s.a.consumedPos = s.b.consumedPos →
      step s = .next { s with loc := { s.loc with idx := 0, sideUsed := 0 }, ctl := .lengths }) ∧
    (s.ctl = .sideValues → s.loc.sideCount ≤ s.loc.idx → s.a.consumedPos ≠ s.b.consumedPos → StepFaults 3 49 s) ∧
    (s.ctl = .lengths → s.lt.lenPacked.length ≤ s.loc.idx → s.loc.sideUsed = s.loc.sideCount →
      step s = .next { s with ctl := .lzRuns }) ∧
    (s.ctl = .lengths → s.lt.lenPacked.length ≤ s.loc.idx → s.loc.sideUsed ≠ s.loc.sideCount → StepFaults 3 50 s)

/-- R199, R210, R215, R242, R243: the end of a code-length read: E34; one symbol fills the output; E57 with no symbol decoder
supplied; with one, E39, E54, E28, and the output, on which the caller's checks may fail (R319, R267, R270).  A supplied decoder must
not decode with a table that is not a complete prefix code (log entry 31), nor to another length: those runs are refused. -/
def Obligations.CodeLengthsDone : Prop :=
  ∀ s : State, s.direct = [] →
    (s.ctl = .gammaFinish → s.tmp.sym = 256 → 2 ≤ s.tmp.numSymbols →
      step s = .next { s with loc := { s.loc with num := s.tmp.numSymbols }, ctl := .codesDone }) ∧
    (s.ctl = .gammaFinish → s.tmp.sym ≠ 256 ∨ s.tmp.numSymbols < 2 → StepFaults 1 34 s) ∧
    (∀ b : Byte, s.ctl = .codesDone → s.loc.num = 1 → Memory.read s.ct.syms 0 = some b →
      s.accepts (List.replicate s.loc.dstSize b) (s.loc.hdr + s.loc.srcSize) →
      ∃ t, step s = .next t ∧ s.Delivered (List.replicate s.loc.dstSize b) (s.loc.hdr + s.loc.srcSize) t) ∧
    (∀ b : Byte, s.ctl = .codesDone → s.loc.num = 1 → Memory.read s.ct.syms 0 = some b →
      s.rejects (List.replicate s.loc.dstSize b) (s.loc.hdr + s.loc.srcSize) →
      ∃ t, step s = .next t ∧ s.CallerFault (List.replicate s.loc.dstSize b) (s.loc.hdr + s.loc.srcSize) t) ∧
    (s.ctl = .codesDone → s.loc.num ≠ 1 →
      match Config.huffDecode with
      | none => StepFaults 4 57 s
      | some f =>
        match f { type := s.loc.ctype, table := s.ct, num := s.loc.num,
                  consumed := s.a.consumedPos - (s.loc.cp + s.loc.hdr : Nat),
                  bytes := srcValues s.src s.a.consumedPos.toNat
                    (s.loc.cp + s.loc.hdr + s.loc.srcSize - s.a.consumedPos.toNat),
                  dstSize := s.loc.dstSize } with
        | .fail => StepFaults 1 39 s
        | .misuse => StepFaults 6 54 s
        | .decoded out n =>
          (¬(s.ct.Complete ∧ out.length = s.loc.dstSize) → step s = .refused .openContract) ∧
          (s.ct.Complete → out.length = s.loc.dstSize →
            (n ≠ s.loc.srcSize → StepFaults 3 28 s) ∧
            (n = s.loc.srcSize → s.accepts out (s.loc.hdr + s.loc.srcSize) →
              ∃ t, step s = .next t ∧ s.Delivered out (s.loc.hdr + s.loc.srcSize) t) ∧
            (n = s.loc.srcSize → s.rejects out (s.loc.hdr + s.loc.srcSize) →
              ∃ t, step s = .next t ∧ s.CallerFault out (s.loc.hdr + s.loc.srcSize) t)))

/-- R311, R320: the LZ runs: E58 with no executor supplied; with one that keeps its contract, the bytes it writes after the seed, each
the next literal or a copy of an earlier byte, then E53 where it fails, E54 where it misuses a cursor, and with every byte of the
sub-chunk written the next sub-chunk.  One that writes past the sub-chunk is refused. -/
def Obligations.LzRuns : Prop :=
  ∀ s : State, s.direct = [] → s.ctl = .lzRuns →
    match Config.processLzRuns with
    | none => StepFaults 4 58 s
    | some f =>
      let answer := f s.loc.mode s.lt s.loc.d s.loc.cnt
      let s0 := if s.loc.d = 0 then 8 else 0
      let o := s.loc.d + s0
      (s.loc.cnt - s0 < answer.writes.length → step s = .refused .openContract) ∧
      (answer.writes.length ≤ s.loc.cnt - s0 → s.LzAllowed o answer.writes →
        (answer.writes = [] ∨ o + answer.writes.length ≤ s.dstLen) →
        ∃ m, s.LzWritten o answer.writes m ∧
          (answer.result = .fail → ∃ t, step s = .next t ∧ FaultTaken 1 53 { s with dst := m } t) ∧
          (answer.result = .misuse → ∃ t, step s = .next t ∧ FaultTaken 6 54 { s with dst := m } t) ∧
          (answer.result = .ok → answer.writes.length = s.loc.cnt - s0 →
            step s = .next { s with dst := m, loc := { s.loc with p := s.loc.q, d := s.loc.d + s.loc.cnt },
                                    ctl := .quantumLoop }))
end

