-- ==== Sys2Proof/Laws/Params.lean ====
section
/-! SUPPORT. The default of each parameter of the general-knowledge passages (R10, file 93 Part 2), so that no proof unfolds
`grammar`, `params`, `decode` or `encode` to find it. -/

namespace Sys2Proof

/-! ### The grammar -/

@[simp] theorem grammar_wordOrder (ctx : Ctx) (bs : Bits) : grammar.wordOrder ctx bs = bs := rfl
@[simp] theorem grammar_headerBytes (ctx : Ctx) : grammar.headerBytes ctx = headerSize ctx := rfl
@[simp] theorem headerSize_krakenBh (ck : Bool) : headerSize (.krakenBh ck) = 6 := rfl
@[simp] theorem headerSize_lznaBh (ck : Bool) : headerSize (.lznaBh ck) = 5 := rfl
@[simp] theorem headerSize_quantum (cnt : Nat) : headerSize (.quantum cnt) = 3 := rfl
@[simp] theorem headerSize_chunk : headerSize .chunk = 5 := rfl

@[simp] theorem decode_ctrl (bs : Bits) : decode .ctrl bs = decodeCtrl bs := rfl
@[simp] theorem decode_streamHeader (bs : Bits) : decode .streamHeader bs = decodeStreamHeader bs := rfl
@[simp] theorem decode_krakenBh (ck : Bool) (bs : Bits) : decode (.krakenBh ck) bs = decodeKrakenBh ck bs := rfl
@[simp] theorem decode_lznaBh (ck : Bool) (bs : Bits) : decode (.lznaBh ck) bs = decodeLznaBh ck bs := rfl
@[simp] theorem decode_quantum (cnt : Nat) (bs : Bits) : decode (.quantum cnt) bs = decodeQuantum cnt bs := rfl
@[simp] theorem decode_chunk (bs : Bits) : decode .chunk bs = decodeChunk bs := rfl
@[simp] theorem decode_selector (bs : Bits) : decode .selector bs = .ok (decodeSelector bs) := rfl
@[simp] theorem decode_sparse (bs : Bits) : decode .sparse bs = .ok (decodeSparse bs) := rfl
@[simp] theorem decode_gammaHeader (bs : Bits) :
    decode .gammaHeader bs = .ok (.gammaHeader (takeField 2 bs).1 (takeBit (takeField 2 bs).2).1) := rfl
@[simp] theorem decode_gammaZero (bs : Bits) :
    decode .gammaZero bs =
      .ok (.gammaZeroRun (decodeCode (fun n => n + 1) bs).1 (decodeCode (fun n => n + 1) bs).2) := rfl
@[simp] theorem decode_gammaRun (bs : Bits) :
    decode .gammaRun bs =
      .ok (.gammaRunCount (decodeCode (fun n => n + 1) bs).1 (decodeCode (fun n => n + 1) bs).2) := rfl
@[simp] theorem decode_residual (f : BitVec 2) (bs : Bits) :
    decode (.residual f) bs =
      .ok (.gammaResidual f (decodeCode (fun _ => f.toNat) bs).1 (decodeCode (fun _ => f.toNat) bs).2) := rfl
@[simp] theorem decode_gammaCode (c : CSel) (bs : Bits) :
    decode (.gammaCode c) bs =
      .ok (.gammaCode c (decodeCode (fun n => n + 1) bs).1 (decodeCode (fun n => n + 1) bs).2) := rfl
@[simp] theorem decode_distance (c : CSel) (cb : Byte) (bs : Bits) :
    decode (.distance c cb) bs = .ok (decodeDistance c cb bs) := rfl
@[simp] theorem decode_lengthCode (c : CSel) (bs : Bits) :
    decode (.lengthCode c) bs =
      .ok (.lengthCode c (decodeCode (fun n => n + 6) bs).1 (decodeCode (fun n => n + 6) bs).2) := rfl
@[simp] theorem decode_sideCount (bs : Bits) :
    decode .sideCount bs =
      .ok (.sideCountCode (decodeCode (fun n => n) bs).1 (decodeCode (fun n => n) bs).2) := rfl

theorem encode_eq (i : Instr) : encode i = encodeElement i := rfl

namespace Machine

/-! ### The parameters -/

@[simp] theorem params_grammar : params.grammar = grammar := rfl
@[simp] theorem params_subchunkSize : params.subchunkSize = 131072 := rfl
@[simp] theorem params_sideMax : params.sideMax = 512 := rfl
@[simp] theorem params_leadingZeros (v : Word) : params.leadingZeros v = clz32 v := rfl
@[simp] theorem params_rotateLeft (v : Word) (n : Nat) : params.rotateLeft v n = rotl32 v n := rfl
@[simp] theorem params_zigzag (v : Nat) : params.zigzag v = zz v := rfl
@[simp] theorem params_room (fill : BitVec 32) : params.room fill = 24#32 - fill := rfl
@[simp] theorem params_codePrefixInit :
    params.codePrefixInit = #v[0x0, 0x0, 0x2, 0x6, 0xE, 0x1E, 0x3E, 0x7E, 0xFE, 0x1FE, 0x2FE, 0x3FE] := rfl
@[simp] theorem params_lznaGroup (fam : Family) :
    params.lznaGroup fam = decide (fam = .lzna ∨ fam = .bitknit) := by cases fam <;> rfl
@[simp] theorem params_krakenFillBytes : params.krakenFillBytes = 4 := rfl
@[simp] theorem params_subchunkHeader : params.subchunkHeader = 3 := rfl
@[simp] theorem params_krakenSize (n : Nat) : params.krakenSize n = n + 1 := rfl
@[simp] theorem params_lznaSize (n : Nat) : params.lznaSize n = n + 1 := rfl
@[simp] theorem params_shortDstSize (d s : BitVec 10) : params.shortDstSize d s = s.toNat + d.toNat + 1 := rfl
@[simp] theorem params_longDstSize (d : BitVec 18) : params.longDstSize d = d.toNat + 1 := rfl
@[simp] theorem params_initialFill : params.initialFill = 24 := rfl
@[simp] theorem params_initialWindow : params.initialWindow = 0 := rfl
@[simp] theorem params_backwardAt (pos : Int) : params.backwardAt pos = pos - 1 := rfl
@[simp] theorem params_zeroWidthRead : params.zeroWidthRead = 0 := rfl
@[simp] theorem params_readBitRefills : params.readBitRefills = true := rfl
@[simp] theorem params_readBitNorefillRefills : params.readBitNorefillRefills = false := rfl
@[simp] theorem params_gammaWidth (lz : Nat) : params.gammaWidth lz = 2 * lz + 2 := rfl
@[simp] theorem params_distanceMask (n : Nat) : params.distanceMask n = BitVec.ofNat 32 (2 ^ (n + 1) - 1) := rfl
@[simp] theorem params_distanceSmall (field : Word) (cb : Byte) :
    params.distanceSmall field cb = (field <<< 4) + (cb &&& 0xF#8).setWidth 32 - 248 := rfl
@[simp] theorem params_distanceLarge (field low : Word) :
    params.distanceLarge field low = 8322816 + (field <<< 12) + low := rfl
@[simp] theorem params_distanceRefills : params.distanceRefills = true := rfl
@[simp] theorem params_lengthMaxZeros : params.lengthMaxZeros = 12 := rfl
@[simp] theorem params_lengthExtra : params.lengthExtra = 7 := rfl
@[simp] theorem params_lengthBias : params.lengthBias = 64 := rfl
@[simp] theorem params_wideSplit : params.wideSplit = 24 := rfl
@[simp] theorem params_consumedAt_fwd (pos room : Int) : params.consumedAt .fwd pos room = pos - room / 8 := rfl
@[simp] theorem params_consumedAt_bwd (pos room : Int) : params.consumedAt .bwd pos room = pos + room / 8 := rfl
@[simp] theorem params_sideCountExtra : params.sideCountExtra = 1 := rfl
@[simp] theorem params_sideCountBias : params.sideCountBias = 1 := rfl
@[simp] theorem params_sideCountLegal (w : Word) : params.sideCountLegal w = decide (8192 ≤ w.toNat) := rfl
@[simp] theorem params_sideCountCursor : params.sideCountCursor = .b := rfl
@[simp] theorem params_sideCountFirst : params.sideCountFirst = true := rfl
@[simp] theorem params_krakenFillDistance : params.krakenFillDistance = 0 := rfl
@[simp] theorem params_freshPrefixes : params.freshPrefixes = true := rfl
@[simp] theorem params_forcedBitsWidth : params.forcedBitsWidth = 2 := rfl
@[simp] theorem params_gammaThreshold (f : Nat) : params.gammaThreshold f = 2 ^ (31 - 20 / 2 ^ f) := rfl
@[simp] theorem params_gammaAfterHeader (skip : Word) :
    params.gammaAfterHeader skip = if skip = 1 then .runCount else .zeroRun := rfl
@[simp] theorem params_gammaGuard : params.gammaGuard = 0xFF000000#32 := rfl
@[simp] theorem params_zeroRunLength (z : Nat) : params.zeroRunLength z = z + 1 := rfl
@[simp] theorem params_gammaAfterZeroRun (sym : Nat) :
    params.gammaAfterZeroRun sym = if 256 ≤ sym then .finish else .runCount := rfl
@[simp] theorem params_runLength (r : Nat) : params.runLength r = r + 1 := rfl
@[simp] theorem params_gammaAfterCount : params.gammaAfterCount = .oneLength := rfl
@[simp] theorem params_residualWidth (lz f : Nat) : params.residualWidth lz f = lz + f + 1 := rfl
@[simp] theorem params_residualValue (lz f r : Nat) :
    params.residualValue lz f r = r - 2 ^ f + lz * 2 ^ f := rfl
@[simp] theorem params_prediction (avg : Int) : params.prediction avg = (avg + 2) / 4 := rfl
@[simp] theorem params_gammaAfterLength (left sym : Nat) :
    params.gammaAfterLength left sym =
      if 0 < left then .oneLength else if sym = 256 then .finish else .zeroRun := rfl
@[simp] theorem params_sparseWidthBits : params.sparseWidthBits = 3 := rfl
@[simp] theorem params_sparseLength (n : Nat) : params.sparseLength n = n + 1 := rfl
@[simp] theorem params_codesEnd (c : Cursor) (consumed : Int) : params.codesEnd c consumed = consumed := rfl
@[simp] theorem params_oneSymbolOutput (n : Nat) (b : Byte) : params.oneSymbolOutput n b = List.replicate n b := rfl
@[simp] theorem params_oneSymbolConsumed (n : Nat) : params.oneSymbolConsumed n = n := rfl
@[simp] theorem params_huffSkip (type : Nat) : params.huffSkip type = 0 := rfl
@[simp] theorem params_capacityFirst : params.capacityFirst = true := rfl
@[simp] theorem params_longSizesOk (srcSize dstSize : Nat) :
    params.longSizesOk srcSize dstSize = decide (srcSize < dstSize) := rfl
@[simp] theorem params_lzMinPayload : params.lzMinPayload = 13 := rfl
@[simp] theorem params_flagConsumed : params.flagConsumed = 0 := rfl
@[simp] theorem params_lzMinAfterCommands : params.lzMinAfterCommands = 3 := rfl
@[simp] theorem params_litCapacity (n : Nat) : params.litCapacity n = n := rfl
@[simp] theorem params_cmdCapacity (n : Nat) : params.cmdCapacity n = n := rfl
@[simp] theorem params_offsCapacity (n : Nat) : params.offsCapacity n = n := rfl
@[simp] theorem params_lensCapacity (n : Nat) : params.lensCapacity n = n / 4 := rfl
@[simp] theorem params_offsetOf (v : Word) : params.offsetOf v = -v := rfl
@[simp] theorem params_scaledOffset (k : Nat) (l : BitVec 3) (bits : Nat) :
    params.scaledOffset k l bits = 8 - (((8 + l.toNat) <<< k ||| bits : Nat) : Int) := rfl
@[simp] theorem params_cursorsMeet (a b : Int) : params.cursorsMeet a b = (a == b) := rfl
@[simp] theorem params_sideLength (v : Nat) : params.sideLength v = v + 255 := rfl
@[simp] theorem params_sideUsedUp (used count : Nat) : params.sideUsedUp used count = (used == count) := rfl
@[simp] theorem params_payloadBound (size bs : Nat) : params.payloadBound size bs = decide (size ≤ bs) := rfl
@[simp] theorem params_subchunkMinimum : params.subchunkMinimum = 4 := rfl
@[simp] theorem params_entropyHeader : params.entropyHeader = 0 := rfl
@[simp] theorem params_isLzSubchunk (used cnt : Nat) : params.isLzSubchunk used cnt = decide (used < cnt) := rfl
@[simp] theorem params_isStored (used cnt mode : Nat) :
    params.isStored used cnt mode = (used == cnt && mode == 0) := rfl

end Machine
end Sys2Proof
end

