-- ==== Sys2Proof/Laws/Cursor.lean ====
section
/-! SUPPORT. Bit strings and cursors: fields written and read back, what a refill and a shift leave a cursor to read next (R23,
R123 to R125, R136), and the window's top bits as numbers. -/

namespace Sys2Proof

/-! ### Fields of a bit string -/

@[simp] theorem bitsOfNat_length (n v : Nat) : (bitsOfNat n v).length = n := by
  induction n with
  | zero => rfl
  | succ n ih => simp [bitsOfNat, ih]

@[simp] theorem bitsOf_length {w : Nat} (v : BitVec w) : (bitsOf v).length = w :=
  bitsOfNat_length w v.toNat

theorem bitsOfNat_getElem? (n v i : Nat) :
    (bitsOfNat n v)[i]? = if i < n then some (v.testBit (n - 1 - i)) else none := by
  induction n generalizing i with
  | zero => simp [bitsOfNat]
  | succ n ih =>
    cases i with
    | zero => simp [bitsOfNat]
    | succ i =>
      simp only [bitsOfNat, List.getElem?_cons_succ, ih]
      have : n - 1 - i = n + 1 - 1 - (i + 1) := by omega
      simp [this]

/-- Reading `n` bits onto `acc` reads the number those bits write. -/
theorem takeNat_bitsOfNat (n acc v : Nat) (rest : Bits) :
    takeNat n acc (bitsOfNat n v ++ rest) = (acc * 2 ^ n + v % 2 ^ n, rest) := by
  induction n generalizing acc with
  | zero => simp [takeNat, bitsOfNat, Nat.mod_one]
  | succ n ih =>
    simp only [bitsOfNat, List.cons_append, takeNat, ih, Prod.mk.injEq, and_true]
    have h : v % 2 ^ (n + 1) = (v.testBit n).toNat * 2 ^ n + v % 2 ^ n := by
      rw [Nat.testBit_eq_decide_div_mod_eq, Nat.pow_succ, Nat.mod_mul]
      rcases Nat.mod_two_eq_zero_or_one (v / 2 ^ n) with h | h <;> simp [h]; omega
    rw [h, Nat.pow_succ]
    generalize (v.testBit n).toNat = b
    generalize 2 ^ n = p
    rw [Nat.add_mul, Nat.mul_comm 2 acc, Nat.mul_assoc acc 2 p, Nat.mul_comm 2 p]
    omega

/-- A field read back is the field written. -/
@[simp] theorem takeField_bitsOf {n : Nat} (v : BitVec n) (rest : Bits) :
    takeField n (bitsOf v ++ rest) = (v, rest) := by
  simp [takeField, bitsOf, takeNat_bitsOfNat, Nat.mod_eq_of_lt v.isLt]

@[simp] theorem takeBit_cons (b : Bool) (rest : Bits) : takeBit (b :: rest) = (b, rest) := rfl

/-- The zeros of a code `0^n 1 ..` are counted and dropped with the one bit. -/
theorem takeZeros_replicate {n k : Nat} (h : n < k) (rest : Bits) :
    takeZeros k (List.replicate n false ++ true :: rest) = (n, rest) := by
  induction n generalizing k with
  | zero => cases k with
    | zero => omega
    | succ k => rfl
  | succ n ih => cases k with
    | zero => omega
    | succ k => simp [List.replicate_succ, takeZeros, ih (k := k) (by omega)]

namespace Machine

/-! ### Cursors -/

/-- R23: every window bit below the valid bits is 0. -/
theorem Cursor.sound_low {c : Cursor} (h : c.sound) {i : Nat} (hi : i < 32 - c.validBits) :
    c.window.getLsbD i = false := by
  have h0 : (c.window <<< c.validBits).getLsbD (i + c.validBits) = false := by rw [h.2.2]; simp
  rw [BitVec.getLsbD_shiftLeft] at h0
  simpa [show i + c.validBits < 32 by omega] using h0

theorem Cursor.fill_range (c : Cursor) : -2147483648 ≤ c.fill ∧ c.fill ≤ 2147483647 := by
  have h1 := BitVec.le_toInt c.fillLevel
  have h2 := BitVec.toInt_lt (x := c.fillLevel)
  simp only [Cursor.fill]
  omega

/-- R23: away from the least `i32`s the room is `24 - fill`. -/
theorem Cursor.room_eq {c : Cursor} (h : -2147483623 ≤ c.fill) : c.room = 24 - c.fill := by
  have h2 := (Cursor.fill_range c).2
  rw [Cursor.room, params_room, BitVec.toInt_sub, show (24#32).toInt = 24 from rfl]
  exact Int.bmod_eq_of_le (by simp only [Cursor.fill] at *; omega) (by simp only [Cursor.fill] at *; omega)

/-- The room is an `i32`. -/
theorem Cursor.room_i32 (c : Cursor) : c.room = i32 (24 - c.fill) := by
  rw [Cursor.room, params_room, BitVec.toInt_sub]; rfl

/-- R23: the valid bits of a cursor whose fill level is not far below 0. -/
theorem Cursor.validBits_eq {c : Cursor} (h : -2147483623 ≤ c.fill) : c.validBits = (24 - c.fill).toNat := by
  rw [Cursor.validBits, Cursor.room_eq h]

theorem Cursor.sound_validBits {c : Cursor} (h : c.sound) : c.validBits = (24 - c.fill).toNat :=
  Cursor.validBits_eq (by have := h.1; omega)

theorem Cursor.sound_of_low {c : Cursor} (h1 : -7 ≤ c.fill) (h2 : c.fill ≤ 24)
    (h : ∀ i < 32 - c.validBits, c.window.getLsbD i = false) : c.sound := by
  refine ⟨h1, h2, ?_⟩
  apply BitVec.eq_of_getLsbD_eq
  intro i hi
  rw [BitVec.getLsbD_shiftLeft]
  by_cases hv : i < c.validBits
  · simp [hv]
  · simp [h (i - c.validBits) (by omega)]

@[simp] theorem Cursor.drop_lo (c : Cursor) (n : Nat) : (c.drop n).lo = c.lo := rfl
@[simp] theorem Cursor.drop_hi (c : Cursor) (n : Nat) : (c.drop n).hi = c.hi := rfl
@[simp] theorem Cursor.drop_dir (c : Cursor) (n : Nat) : (c.drop n).dir = c.dir := rfl
@[simp] theorem Cursor.drop_pos (c : Cursor) (n : Nat) : (c.drop n).pos = c.pos := rfl
@[simp] theorem Cursor.drop_window (c : Cursor) (n : Nat) : (c.drop n).window = c.window <<< n := rfl

/-- A shift adds to the fill level, where the sum is an `i32`. -/
theorem Cursor.drop_fill {c : Cursor} {n : Nat} (h : c.fill + n ≤ 2147483647) : (c.drop n).fill = c.fill + n := by
  have h1 := (Cursor.fill_range c).1
  show (c.fillLevel + BitVec.ofNat 32 n).toInt = _
  rw [BitVec.toInt_add, BitVec.toInt_ofNat', Int.add_bmod_bmod]
  exact Int.bmod_eq_of_le (by simp only [Cursor.fill] at *; omega) (by simp only [Cursor.fill] at *; omega)

/-- A byte pulled takes 8 from the fill level. -/
theorem Cursor.pull_fill {dir : Dir} {src : Source} {c : Cursor} (h : 0 < c.fill) :
    (c.pull dir src).fill = c.fill - 8 := by
  have h1 := (Cursor.fill_range c).2
  have e : (c.pull dir src).fillLevel = c.fillLevel - 8 := by cases dir <;> rfl
  rw [Cursor.fill, e, BitVec.toInt_sub, show BitVec.toInt (8 : BitVec 32) = 8 from rfl]
  exact Int.bmod_eq_of_le (by simp only [Cursor.fill] at *; omega) (by simp only [Cursor.fill] at *; omega)

/-- The fill level and the valid bits after valid bits are shifted out. -/
theorem Cursor.drop_valid {c : Cursor} (h : c.sound) {n : Nat} (hn : n ≤ c.validBits) :
    (c.drop n).fill = c.fill + n ∧ (c.drop n).validBits + n = c.validBits ∧ (c.validBits : Int) = 24 - c.fill := by
  have h1 := h.1; have h2 := h.2.1
  have hv := Cursor.sound_validBits h
  have hf : (c.drop n).fill = c.fill + n := Cursor.drop_fill (by omega)
  refine ⟨hf, ?_, by omega⟩
  rw [Cursor.validBits_eq (by omega), hf]; omega

/-- Shifting out valid bits leaves a sound cursor. -/
theorem Cursor.sound_drop {c : Cursor} (h : c.sound) {n : Nat} (hn : n ≤ c.validBits) : (c.drop n).sound := by
  have h1 := h.1; have h2 := h.2.1
  obtain ⟨hf, hd, hv⟩ := Cursor.drop_valid h hn
  refine Cursor.sound_of_low (by omega) (by omega) fun i hi => ?_
  rw [Cursor.drop_window, BitVec.getLsbD_shiftLeft]
  by_cases hin : i < n
  · simp [hin]
  · simp [Cursor.sound_low h (i := i - n) (by omega)]

theorem Cursor.nextBytes_congr {src : Source} {c c' : Cursor} (hlo : c'.lo = c.lo) (hhi : c'.hi = c.hi)
    (hdir : c'.dir = c.dir) (k : Nat) (pos : Int) : c'.nextBytes src k pos = c.nextBytes src k pos := by
  induction k generalizing pos with
  | zero => rfl
  | succ k ih => simp only [Cursor.nextBytes, Cursor.byteAt, hlo, hhi, hdir, ih]

@[simp] theorem Cursor.nextBytes_length (src : Source) (c : Cursor) (k : Nat) (pos : Int) :
    (c.nextBytes src k pos).length = 8 * k := by
  induction k generalizing pos with
  | zero => rfl
  | succ k ih => cases h : c.dir <;> simp [Cursor.nextBytes, h, ih] <;> omega

theorem Cursor.upcoming_length {src : Source} {c : Cursor} (h : c.sound) (k : Nat) :
    (c.upcoming src k).length = c.validBits + 8 * k := by
  have := h.1
  have hv := Cursor.sound_validBits h
  simp [Cursor.upcoming]; omega

/-- The bits read next after `n` valid ones. -/
theorem Cursor.upcoming_drop {src : Source} {c : Cursor} (h : c.sound) {n : Nat} (hn : n ≤ c.validBits) (k : Nat) :
    (c.drop n).upcoming src k = (c.upcoming src k).drop n := by
  have h1 := h.1
  obtain ⟨hf, hv, hv24⟩ := Cursor.drop_valid h hn
  have hlen : n ≤ ((bitsOfNat 32 c.window.toNat).take c.validBits).length := by
    simp only [List.length_take, bitsOfNat_length]; omega
  simp only [Cursor.upcoming, List.drop_append_of_le_length hlen, Cursor.drop_pos,
    Cursor.nextBytes_congr (Cursor.drop_lo c n) (Cursor.drop_hi c n) (Cursor.drop_dir c n)]
  congr 1
  have hv32 : c.validBits ≤ 31 := by omega
  apply List.ext_getElem?
  intro i
  simp only [List.getElem?_drop, List.getElem?_take, bitsOfNat_getElem?, Cursor.drop_window, BitVec.testBit_toNat,
    BitVec.getLsbD_shiftLeft]
  by_cases hi : i < (c.drop n).validBits
  · have h2 : n + i < c.validBits := by omega
    have h3 : 32 - 1 - i - n = 32 - 1 - (n + i) := by omega
    have h4 : i < 32 := by omega
    have h5 : n + i < 32 := by omega
    have h6 : 32 - 1 - i < 32 := by omega
    have h7 : ¬ 32 - 1 - i < n := by omega
    simp only [hi, h2, h4, h5, h6, h7, if_true, h3, decide_true, decide_false, Bool.not_false, Bool.true_and]
  · have h2 : ¬ n + i < c.validBits := by omega
    simp [hi, h2]

/-- Pulling one byte in a cursor's own direction keeps it sound and leaves the bits it reads next. -/
theorem Cursor.pull_spec {src : Source} {c : Cursor} (h : c.sound) (hf : 0 < c.fill) :
    (c.pull c.dir src).sound ∧ (c.pull c.dir src).fill = c.fill - 8 ∧ (c.pull c.dir src).lo = c.lo ∧
    (c.pull c.dir src).hi = c.hi ∧ (c.pull c.dir src).dir = c.dir ∧
    (c.pull c.dir src).pos = (match c.dir with | .fwd => c.pos + 1 | .bwd => c.pos - 1) ∧
    ∀ k, (c.pull c.dir src).upcoming src k = c.upcoming src (k + 1) := by
  have h2 := h.2.1
  obtain ⟨b, hb⟩ : ∃ b : Byte, b = (match c.dir with | .fwd => c.byteAt src c.pos | .bwd => c.byteAt src (c.pos - 1)) :=
    ⟨_, rfl⟩
  have hw : (c.pull c.dir src).window = c.window ||| (b.setWidth 32 <<< c.fill.toNat) := by
    rw [hb]; cases hd : c.dir <;> rfl
  have h1 := h.1
  have hvb := Cursor.sound_validBits h
  have hfill : (c.pull c.dir src).fill = c.fill - 8 := Cursor.pull_fill hf
  have hpull := Cursor.validBits_eq (c := c.pull c.dir src) (by omega)
  have hlo : (c.pull c.dir src).lo = c.lo := by cases hd : c.dir <;> rfl
  have hhi : (c.pull c.dir src).hi = c.hi := by cases hd : c.dir <;> rfl
  have hdir : (c.pull c.dir src).dir = c.dir := by cases hd : c.dir <;> simp [Cursor.pull, hd]
  have hpos : (c.pull c.dir src).pos = (match c.dir with | .fwd => c.pos + 1 | .bwd => c.pos - 1) := by
    cases hd : c.dir <;> rfl
  have hbit : ∀ i, (c.pull c.dir src).window.getLsbD i =
      (c.window.getLsbD i || (decide (i < 32) && !decide (i < c.fill.toNat) && b.getLsbD (i - c.fill.toNat))) := by
    intro i
    rw [hw, BitVec.getLsbD_or, BitVec.getLsbD_shiftLeft, BitVec.getLsbD_setWidth]
    by_cases h32 : i < 32
    · simp [show i - c.fill.toNat < 32 by omega]
    · simp [h32]
  refine ⟨?_, hfill, hlo, hhi, hdir, hpos, fun k => ?_⟩
  · refine Cursor.sound_of_low (by omega) (by omega) fun i hi => ?_
    rw [hbit, Cursor.sound_low h (i := i) (by omega)]
    simp [show i < c.fill.toNat by omega]
  · simp only [Cursor.upcoming, Cursor.nextBytes_congr hlo hhi hdir]
    have hnext : c.nextBytes src (k + 1) c.pos = bitsOf b ++ c.nextBytes src k (c.pull c.dir src).pos := by
      rw [hpos, hb]; cases hd : c.dir <;> simp [Cursor.nextBytes, hd]
    rw [hnext, ← List.append_assoc]
    congr 1
    have hv : (c.pull c.dir src).validBits = c.validBits + 8 := by omega
    have hvle : c.validBits + 8 ≤ 32 := by omega
    have hvf : c.validBits = 24 - c.fill.toNat := by omega
    have hf24 : c.fill.toNat ≤ 24 := by omega
    apply List.ext_getElem?
    intro i
    rw [List.getElem?_append]
    simp only [List.length_take, bitsOfNat_length, List.getElem?_take, bitsOf, bitsOfNat_getElem?, hv,
      BitVec.testBit_toNat]
    rw [show min c.validBits 32 = c.validBits by omega]
    by_cases hi : i < c.validBits
    · have e1 : b.getLsbD (32 - 1 - i - c.fill.toNat) = false := by
        apply BitVec.getLsbD_of_ge; omega
      simp [hi, show i < c.validBits + 8 by omega, show i < 32 by omega, hbit, e1]
    · by_cases hi8 : i < c.validBits + 8
      · have e0 : c.window.getLsbD (32 - 1 - i) = false := Cursor.sound_low h (by omega)
        have e1 : 32 - 1 - i - c.fill.toNat = 8 - 1 - (i - c.validBits) := by omega
        have h4 : i < 32 := by omega
        have h5 : 32 - 1 - i < 32 := by omega
        have h6 : ¬ 32 - 1 - i < c.fill.toNat := by omega
        have h7 : i - c.validBits < 8 := by omega
        simp only [hi, hi8, h4, h5, h6, h7, hbit, e0, e1, if_true, if_false, decide_true, decide_false,
          Bool.not_false, Bool.true_and, Bool.false_or]
      · simp [hi, hi8, show ¬ i - c.validBits < 8 by omega]

/-- The loop of R123 and R124, in a cursor's own direction, keeps a sound cursor sound and consumes no bit. -/
theorem Cursor.fillLoop_spec {src : Source} (n : Nat) {c : Cursor} (h : c.sound) (hn : c.fill ≤ 8 * (n : Int)) :
    c.AdvancedFull src 0 (c.fillLoop c.dir src n) ∧
    (c.fillLoop c.dir src n).dir = c.dir ∧
    (c.dir = .fwd → c.pos ≤ (c.fillLoop c.dir src n).pos) ∧ (c.dir = .bwd → (c.fillLoop c.dir src n).pos ≤ c.pos) := by
  have base : c.fill ≤ 0 → c.AdvancedFull src 0 c := fun h0 =>
    ⟨⟨h, rfl, rfl, rfl, fun k => by simp⟩, h0⟩
  induction n generalizing c with
  | zero => exact ⟨base (by omega), rfl, fun _ => Int.le_refl _, fun _ => Int.le_refl _⟩
  | succ n ih =>
    unfold Cursor.fillLoop
    split
    · next hf =>
      obtain ⟨p1, p2, p3, p4, p5, p6, p7⟩ := Cursor.pull_spec (src := src) h hf
      have := ih p1 (by omega) (fun h0 => ⟨⟨p1, rfl, rfl, rfl, fun k => by simp⟩, h0⟩)
      rw [p5] at this
      obtain ⟨⟨⟨q1, q2, q3, q4, q5⟩, q6⟩, q7, q8, q9⟩ := this
      refine ⟨⟨⟨q1, by rw [q2, p3], by rw [q3, p4], q7, fun k => ?_⟩, q6⟩, q7, ?_, ?_⟩
      · rw [q5, p7]
        simp only [List.drop_zero]
        congr 1
        cases hd : c.dir
        · have e1 : (c.pull c.dir src).pos = c.pos + 1 := by rw [p6, hd]
          have e2 := q8 hd
          rw [hd] at e1 e2; omega
        · have e1 : (c.pull c.dir src).pos = c.pos - 1 := by rw [p6, hd]
          have e2 := q9 hd
          rw [hd] at e1 e2; omega
      · intro hd
        have e1 : (c.pull c.dir src).pos = c.pos + 1 := by rw [p6, hd]
        have := q8 hd; omega
      · intro hd
        have e1 : (c.pull c.dir src).pos = c.pos - 1 := by rw [p6, hd]
        have := q9 hd; omega
    · exact ⟨base (by omega), rfl, fun _ => Int.le_refl _, fun _ => Int.le_refl _⟩

/-- Shifting out `n` valid bits consumes them. -/
theorem Cursor.advanced_drop {src : Source} {c : Cursor} (h : c.sound) {n : Nat} (hn : n ≤ c.validBits) :
    c.Advanced src n (c.drop n) :=
  ⟨Cursor.sound_drop h hn, rfl, rfl, rfl, fun k => by simp [Cursor.upcoming_drop h hn]⟩

/-- Consuming `m` bits and then `n` consumes `m + n`, where both go in one direction. -/
theorem Cursor.Advanced.trans {src : Source} {m n : Nat} {c d e : Cursor} (h1 : c.Advanced src m d)
    (h2 : d.Advanced src n e)
    (hpos : (e.pos - c.pos).natAbs = (e.pos - d.pos).natAbs + (d.pos - c.pos).natAbs) : c.Advanced src (m + n) e := by
  refine ⟨h2.1, h2.2.1.trans h1.2.1, h2.2.2.1.trans h1.2.2.1, h2.2.2.2.1.trans h1.2.2.2.1, fun k => ?_⟩
  rw [h2.2.2.2.2, h1.2.2.2.2, List.drop_drop, hpos, ← Nat.add_assoc]

/-- R123, R124, R136: a refill in a cursor's own direction. -/
theorem Cursor.refillDir_spec {src : Source} {c : Cursor} (h : c.sound) :
    c.refillDir c.dir src = .ok (c.fillLoop c.dir src 3) ∧ c.AdvancedFull src 0 (c.fillLoop c.dir src 3) :=
  ⟨by simp [Cursor.refillDir, h.2.1], (Cursor.fillLoop_spec 3 h (by have := h.2.1; omega)).1⟩

/-- `n` valid bits shifted out, then a refill. -/
theorem Cursor.drop_refill_spec {src : Source} {c : Cursor} (h : c.sound) {n : Nat} (hn : n ≤ c.validBits) :
    (c.drop n).refillDir c.dir src = .ok ((c.drop n).fillLoop c.dir src 3) ∧
    c.AdvancedFull src n ((c.drop n).fillLoop c.dir src 3) := by
  have hs := Cursor.sound_drop h hn
  have h1 := Cursor.refillDir_spec (src := src) hs
  rw [Cursor.drop_dir] at h1
  refine ⟨h1.1, ?_, h1.2.2⟩
  have := Cursor.Advanced.trans (Cursor.advanced_drop (src := src) h hn) h1.2.1 (by simp)
  simpa using this

/-- R127: `read_bit` refills forward, then reads one bit. -/
theorem Cursor.readBit_eq (src : Source) (c : Cursor) :
    c.readBit src = (c.refillDir .fwd src >>= fun c => c.readBits 1) := rfl

/-- R127: `read_bit_norefill` reads one bit. -/
@[simp] theorem Cursor.readBitNorefill_eq (src : Source) (c : Cursor) : c.readBitNorefill src = c.readBits 1 := rfl

theorem Cursor.upcoming_prefix {src : Source} {c : Cursor} {j k : Nat} (h : j ≤ k) :
    c.upcoming src j <+: c.upcoming src k := by
  have next : ∀ (j : Nat) (pos : Int) (k : Nat), j ≤ k → c.nextBytes src j pos <+: c.nextBytes src k pos := by
    intro j
    induction j with
    | zero => intro pos k _; exact List.nil_prefix
    | succ j ih =>
      intro pos k hk
      cases k with
      | zero => omega
      | succ k =>
        cases hd : c.dir <;> simp only [Cursor.nextBytes, hd] <;>
          exact (List.prefix_append_right_inj _).2 (ih _ k (by omega))
  exact (List.prefix_append_right_inj _).2 (next j c.pos k h)

/-- What a cursor reads after the bits it has consumed. -/
theorem Cursor.reads_advanced {src : Source} {c c' : Cursor} {x y : Bits} (h : c.reads src (x ++ y))
    (ha : c.Advanced src x.length c') : c'.reads src y := by
  unfold Cursor.reads at h ⊢
  rw [ha.2.2.2.2]
  obtain ⟨r, hr⟩ := h
  have h1 := Cursor.upcoming_prefix (src := src) (c := c)
    (j := y.length + (c'.pos - c.pos).natAbs) (k := (x ++ y).length + (y.length + (c'.pos - c.pos).natAbs)) (by omega)
  have h2 := Cursor.upcoming_prefix (src := src) (c := c)
    (j := (x ++ y).length) (k := (x ++ y).length + (y.length + (c'.pos - c.pos).natAbs)) (by omega)
  have h3 : x ++ y <+: c.upcoming src ((x ++ y).length + (y.length + (c'.pos - c.pos).natAbs)) :=
    List.IsPrefix.trans ⟨r, hr⟩ h2
  have hlen : (x ++ y).length ≤ (c.upcoming src (y.length + (c'.pos - c.pos).natAbs)).length := by
    have e1 := congrArg List.length (ha.2.2.2.2 y.length)
    have e2 := Cursor.upcoming_length (src := src) ha.1 y.length
    rw [e2, List.length_drop] at e1
    by_cases hy : y.length = 0
    · have e3 : x.length ≤ (c.upcoming src (y.length + (c'.pos - c.pos).natAbs)).length ∨
          (c.upcoming src (y.length + (c'.pos - c.pos).natAbs)).length < x.length := by omega
      rcases e3 with e3 | e3
      · simp; omega
      · exfalso
        have e4 := congrArg List.length (ha.2.2.2.2 1)
        have e5 := Cursor.upcoming_length (src := src) ha.1 1
        have e6 := congrArg List.length (ha.2.2.2.2 0)
        have e7 := Cursor.upcoming_length (src := src) ha.1 0
        have e8 : ∀ k, (c.upcoming src k).length = (c.upcoming src 0).length + 8 * k := by
          intro k; simp [Cursor.upcoming]
        rw [e5, List.length_drop, e8] at e4
        rw [e7, List.length_drop, e8] at e6
        rw [e8] at e3
        omega
    · simp only [List.length_append]; omega
  have h4 : x ++ y <+: c.upcoming src (y.length + (c'.pos - c.pos).natAbs) :=
    List.prefix_of_prefix_length_le h3 h1 hlen
  obtain ⟨r', hr'⟩ := h4
  exact ⟨r', by rw [← hr', List.append_assoc, List.drop_left]⟩

/-! ### The window's top bits as numbers -/

/-- The window's top `n` bits, all valid, are the bits the cursor reads next. -/
theorem Cursor.window_bits {src : Source} {c : Cursor} (h : c.sound) {bits : Bits} (hr : c.reads src bits) {i : Nat}
    (hi : i < c.validBits) (hb : i < bits.length) : c.window.getLsbD (31 - i) = bits[i] := by
  have h1 := h.1
  have hv : c.validBits ≤ 31 := by rw [Cursor.sound_validBits h]; omega
  have h2 : bits[i]? = (c.upcoming src bits.length)[i]? := by
    obtain ⟨r, hr⟩ := hr
    rw [← hr, List.getElem?_append_left hb]
  rw [List.getElem?_eq_getElem hb, Cursor.upcoming, List.getElem?_append_left
    (by simp only [List.length_take, bitsOfNat_length]; omega), List.getElem?_take, if_pos hi,
    bitsOfNat_getElem?, if_pos (by omega), BitVec.testBit_toNat] at h2
  exact (Option.some.inj h2).symm

/-- The number the window's top `n` bits write. -/
theorem Cursor.window_top {src : Source} {c : Cursor} (h : c.sound) {n x : Nat} {rest : Bits} (hn : n ≤ c.validBits)
    (hx : x < 2 ^ n) (hr : c.reads src (bitsOfNat n x ++ rest)) : c.window.toNat / 2 ^ (32 - n) = x := by
  have hv : c.validBits ≤ 31 := by have := h.1; rw [Cursor.sound_validBits h]; omega
  apply Nat.eq_of_testBit_eq
  intro i
  rw [Nat.testBit_div_two_pow]
  by_cases hi : i < n
  · have := Cursor.window_bits h hr (i := n - 1 - i) (by omega) (by simp; omega)
    rw [List.getElem_append_left (by simp; omega)] at this
    have h3 : (bitsOfNat n x)[n - 1 - i]? = some (x.testBit i) := by
      rw [bitsOfNat_getElem?, if_pos (by omega)]; congr 2; omega
    rw [List.getElem?_eq_getElem (by simp; omega)] at h3
    rw [Option.some.inj h3] at this
    rw [← this, BitVec.getLsbD]; congr 1; omega
  · have e1 : x.testBit i = false := Nat.testBit_lt_two_pow (Nat.lt_of_lt_of_le hx (Nat.pow_le_pow_right (by omega) (by omega)))
    have e2 : c.window.toNat.testBit (32 - n + i) = false :=
      Nat.testBit_lt_two_pow (Nat.lt_of_lt_of_le c.window.isLt (Nat.pow_le_pow_right (by omega) (by omega)))
    rw [e1, Nat.add_comm] ; exact e2

theorem clz32_of_range {v : Word} {n : Nat} (hn : n ≤ 31) (h1 : 2 ^ (31 - n) ≤ v.toNat) (h2 : v.toNat < 2 ^ (32 - n)) :
    clz32 v = n := by
  have hpos : 0 < v.toNat := Nat.lt_of_lt_of_le (Nat.two_pow_pos _) h1
  have hne : v ≠ 0 := by intro h; subst h; simp at hpos
  rw [clz32, if_neg hne]
  have : v.toNat.log2 = 31 - n := by
    rw [Nat.log2_eq_iff (by omega)]
    refine ⟨h1, ?_⟩
    rw [show 31 - n + 1 = 32 - n by omega]; exact h2
  omega

/-- The leading zeros of a window that shows `0^n 1 ..`. -/
theorem Cursor.clz_window {src : Source} {c : Cursor} (h : c.sound) {n : Nat} {rest : Bits} (hn : n < c.validBits)
    (hr : c.reads src (List.replicate n false ++ true :: rest)) : clz32 c.window = n := by
  have hv : c.validBits ≤ 31 := by have := h.1; rw [Cursor.sound_validBits h]; omega
  have e : List.replicate n false ++ true :: rest = bitsOfNat (n + 1) 1 ++ rest := by
    have : bitsOfNat (n + 1) 1 = List.replicate n false ++ [true] := by
      apply List.ext_getElem?
      intro i
      rw [bitsOfNat_getElem?, List.getElem?_append]
      by_cases h1 : i < n
      · have h2 : ∃ k, n + 1 - 1 - i = k + 1 := ⟨n - 1 - i, by omega⟩
        obtain ⟨k, hk⟩ := h2
        have h3 : Nat.testBit 1 (n + 1 - 1 - i) = false := by rw [hk, Nat.testBit_succ]; simp
        rw [h3]
        simp [h1, show i < n + 1 by omega]
      · by_cases h2 : i = n
        · subst h2; simp
        · have h3 : [true][i - n]? = none := List.getElem?_eq_none (by simp; omega)
          simp [h1, show ¬ i < n + 1 by omega, h3]
    rw [this]; simp
  rw [e] at hr
  have h3 := Cursor.window_top h (n := n + 1) (by omega) (Nat.one_lt_two_pow (by omega)) hr
  rw [show 32 - (n + 1) = 31 - n by omega] at h3
  have hp : 0 < 2 ^ (31 - n) := Nat.two_pow_pos _
  refine clz32_of_range (by omega) ?_ ?_
  · have := Nat.div_add_mod c.window.toNat (2 ^ (31 - n)); rw [h3] at this; omega
  · have := Nat.div_add_mod c.window.toNat (2 ^ (31 - n)); rw [h3] at this
    have := Nat.mod_lt c.window.toNat hp
    rw [show 32 - n = (31 - n) + 1 by omega, Nat.pow_succ]; omega

end Machine
end Sys2Proof
end

