-- ==== Sys2Proof/Laws/Memory.lean ====
section
/-! SUPPORT. The laws of byte memories: a read after a write, the bytes of a list, the merge of R343, and that every operation
keeps the canonical form. -/

namespace Sys2Proof.Machine

/-! ### Reading what was written -/

@[simp] theorem Memory.read_nil (a : Nat) : Memory.read [] a = none := rfl

theorem Memory.read_write (m : Memory) (a b : Nat) (v : Byte) :
    Memory.read (Memory.write m a v) b = if a = b then some v else Memory.read m b := by
  induction m with
  | nil => simp [Memory.write, Memory.read]
  | cons c m ih =>
    obtain ⟨k, w⟩ := c
    unfold Memory.write
    split
    · simp [Memory.read]
    · split
      · next h => subst h; by_cases hb : a = b <;> simp [Memory.read, hb]
      · next h1 h2 =>
        simp only [Memory.read, ih]
        by_cases hk : k = b
        · have : ¬ a = b := by omega
          simp [hk, this]
        · simp [hk]

@[simp] theorem Memory.read_write_same (m : Memory) (a : Nat) (v : Byte) :
    Memory.read (Memory.write m a v) a = some v := by
  simp [Memory.read_write]

theorem Memory.read_write_other (m : Memory) {a b : Nat} (v : Byte) (h : a ≠ b) :
    Memory.read (Memory.write m a v) b = Memory.read m b := by
  simp [Memory.read_write, h]

theorem Memory.read_writeList (m : Memory) (a : Nat) (bs : List Byte) (b : Nat) :
    Memory.read (Memory.writeList m a bs) b =
      if a ≤ b ∧ b < a + bs.length then bs[b - a]? else Memory.read m b := by
  induction bs generalizing m a with
  | nil =>
    have : ¬ (a ≤ b ∧ b < a + ([] : List Byte).length) := by simp
    simp only [Memory.writeList, if_neg this]
  | cons x xs ih =>
    simp only [Memory.writeList, ih, Memory.read_write, List.length_cons]
    by_cases h0 : a = b
    · subst h0
      simp [show ¬ a + 1 ≤ a by omega]
    · by_cases h1 : a + 1 ≤ b ∧ b < a + 1 + xs.length
      · have h2 : a ≤ b ∧ b < a + (xs.length + 1) := by omega
        have h3 : b - a = (b - (a + 1)) + 1 := by omega
        rw [if_pos h1, if_pos h2, h3, List.getElem?_cons_succ]
      · have h2 : ¬ (a ≤ b ∧ b < a + (xs.length + 1)) := by omega
        rw [if_neg h1, if_neg h2, if_neg h0]

@[simp] theorem srcValues_length (m : Memory) (i n : Nat) : (srcValues m i n).length = n := by
  induction n generalizing i with
  | zero => rfl
  | succ n ih => simp [srcValues, ih]

theorem srcValues_getElem? (m : Memory) (i n j : Nat) :
    (srcValues m i n)[j]? = if j < n then some (srcValue m (i + j)) else none := by
  induction n generalizing i j with
  | zero => simp [srcValues]
  | succ n ih =>
    cases j with
    | zero => simp [srcValues]
    | succ j =>
      simp only [srcValues, List.getElem?_cons_succ, ih]
      have : i + 1 + j = i + (j + 1) := by omega
      simp [this]

/-- What `writeList` stores. -/
theorem Memory.stored_writeList (m : Memory) (o : Nat) (bs : List Byte) (f : Nat → Byte)
    (h : ∀ j, (hj : j < bs.length) → bs[j] = f j) : Memory.Stored m o bs.length f (Memory.writeList m o bs) := by
  intro a
  rw [Memory.read_writeList]
  split
  · next ha => rw [List.getElem?_eq_getElem (by omega), h _ (by omega)]
  · rfl

/-- Source bytes copied to offset `o`. -/
theorem Memory.stored_srcValues (m src : Memory) (o i n : Nat) :
    Memory.Stored m o n (fun j => srcValue src (i + j)) (Memory.writeList m o (srcValues src i n)) := by
  have h := Memory.stored_writeList m o (srcValues src i n) (fun j => srcValue src (i + j)) (fun j hj => by
    have := srcValues_getElem? src i n j
    rw [srcValues_length] at hj
    rw [List.getElem?_eq_getElem (by simpa using hj), if_pos hj] at this
    exact Option.some.inj this)
  simpa using h

/-- A constant byte stored `n` times. -/
theorem Memory.stored_replicate (m : Memory) (o n : Nat) (v : Byte) :
    Memory.Stored m o n (fun _ => v) (Memory.writeList m o (List.replicate n v)) := by
  have h := Memory.stored_writeList m o (List.replicate n v) (fun _ => v) (fun j hj => by simp)
  simpa using h

theorem Memory.read_mergeFree (keep : Nat → Bool) (old m : Memory) (a : Nat) :
    Memory.read (Memory.mergeFree keep old m) a =
      if keep a then (Memory.read m a).or (Memory.read old a) else Memory.read old a := by
  induction m with
  | nil => simp [Memory.mergeFree, Memory.read]
  | cons c m ih =>
    obtain ⟨k, v⟩ := c
    simp only [Memory.mergeFree]
    by_cases hk : keep k
    · simp only [hk, if_true, Memory.read_write, ih, Memory.read]
      by_cases hka : k = a
      · subst hka; simp [hk]
      · simp [hka]
    · rw [if_neg hk, ih]
      by_cases hka : k = a
      · subst hka; simp [hk]
      · simp [Memory.read, hka]

/-! ### The canonical form -/

theorem Memory.wf_of_wfAbove {a : Nat} {m : Memory} (h : Memory.wfAbove a m = true) : Memory.wf m = true := by
  cases m with
  | nil => rfl
  | cons c m =>
    obtain ⟨k, v⟩ := c
    simp only [Memory.wfAbove, Bool.and_eq_true] at h
    exact h.2

theorem Memory.wfAbove_write {m : Memory} {l a : Nat} {v : Byte} (hl : l < a) (h : Memory.wfAbove l m = true) :
    Memory.wfAbove l (Memory.write m a v) = true := by
  induction m generalizing l with
  | nil => simp [Memory.write, Memory.wfAbove, hl]
  | cons c m ih =>
    obtain ⟨k, w⟩ := c
    simp only [Memory.wfAbove, Bool.and_eq_true, decide_eq_true_eq] at h
    unfold Memory.write
    split
    · next hk => simp [Memory.wfAbove, hl, hk, h.2]
    · split
      · next h2 => subst h2; simp [Memory.wfAbove, hl, h.2]
      · simp only [Memory.wfAbove, Bool.and_eq_true, decide_eq_true_eq]
        exact ⟨h.1, ih (by omega) h.2⟩

/-- A write keeps the canonical form. -/
theorem Memory.wf_write {m : Memory} (a : Nat) (v : Byte) (h : Memory.wf m = true) :
    Memory.wf (Memory.write m a v) = true := by
  cases m with
  | nil => rfl
  | cons c m =>
    obtain ⟨k, w⟩ := c
    simp only [Memory.wf] at h
    unfold Memory.write
    split
    · next hk => simp [Memory.wf, Memory.wfAbove, hk, h]
    · split
      · next h2 => subst h2; exact h
      · next h1 h2 => exact Memory.wfAbove_write (by omega) h

theorem Memory.wf_writeList {m : Memory} (a : Nat) (bs : List Byte) (h : Memory.wf m = true) :
    Memory.wf (Memory.writeList m a bs) = true := by
  induction bs generalizing m a with
  | nil => exact h
  | cons b bs ih => exact ih (a + 1) (Memory.wf_write a b h)

theorem Memory.wf_mergeFree (keep : Nat → Bool) {old : Memory} (m : Memory) (h : Memory.wf old = true) :
    Memory.wf (Memory.mergeFree keep old m) = true := by
  induction m with
  | nil => exact h
  | cons c m ih =>
    obtain ⟨k, v⟩ := c
    simp only [Memory.mergeFree]
    split
    · exact Memory.wf_write k v ih
    · exact ih

/-- Every memory after reset is in canonical form. -/
theorem State.reset_memoriesCanonical : State.reset.memoriesCanonical := by
  decide

/-- Memories in canonical form that read alike above `l` are equal. -/
theorem Memory.eq_of_wfAbove {l : Nat} {m n : Memory} (hm : Memory.wfAbove l m = true)
    (hn : Memory.wfAbove l n = true) (h : ∀ a, Memory.read m a = Memory.read n a) : m = n := by
  have none_of : ∀ {l a : Nat} {m : Memory}, Memory.wfAbove l m = true → a ≤ l → Memory.read m a = none := by
    intro l a m
    induction m generalizing l with
    | nil => intros; rfl
    | cons c m ih =>
      obtain ⟨k, v⟩ := c
      intro h ha
      simp only [Memory.wfAbove, Bool.and_eq_true, decide_eq_true_eq] at h
      have : ¬ k = a := by omega
      simp only [Memory.read, if_neg this]
      exact ih h.2 (by omega)
  induction m generalizing l n with
  | nil =>
    cases n with
    | nil => rfl
    | cons c n => obtain ⟨k, v⟩ := c; have := h k; simp [Memory.read] at this
  | cons c m ih =>
    obtain ⟨k, v⟩ := c
    cases n with
    | nil => have := h k; simp [Memory.read] at this
    | cons d n =>
      obtain ⟨j, w⟩ := d
      simp only [Memory.wfAbove, Bool.and_eq_true, decide_eq_true_eq] at hm hn
      have hkj : k = j := by
        rcases Nat.lt_trichotomy k j with hlt | heq | hgt
        · have h1 := h k
          have h2 : ¬ j = k := by omega
          simp only [Memory.read, if_true, if_neg h2, none_of hn.2 (Nat.le_of_lt hlt)] at h1
          cases h1
        · exact heq
        · have h1 := h j
          have h2 : ¬ k = j := by omega
          simp only [Memory.read, if_true, if_neg h2, none_of hm.2 (Nat.le_of_lt hgt)] at h1
          cases h1
      subst hkj
      have hv : v = w := by have := h k; simpa [Memory.read] using this
      subst hv
      have htail : m = n := by
        refine ih hm.2 hn.2 fun a => ?_
        by_cases ha : k = a
        · subst ha; rw [none_of hm.2 (Nat.le_refl k), none_of hn.2 (Nat.le_refl k)]
        · have := h a; simpa [Memory.read, ha] using this
      rw [htail]

end Sys2Proof.Machine
end

