-- ==== Sys2Proof/Laws/State.lean ====
section
/-! SUPPORT. One lemma per field per update of the state, true by computation, so that no proof unfolds a record update;
and the same for the cursor registers and the derived readings of the state. -/

namespace Sys2Proof.Machine

/-! ### `State.setPhase` -/

@[simp] theorem State.setPhase_phase (s : State) (v : Phase) : (s.setPhase v).phase = v := rfl
@[simp] theorem State.setPhase_sp (s : State) (v : Phase) : (s.setPhase v).sp = s.sp := rfl
@[simp] theorem State.setPhase_off (s : State) (v : Phase) : (s.setPhase v).off = s.off := rfl
@[simp] theorem State.setPhase_sh (s : State) (v : Phase) : (s.setPhase v).sh = s.sh := rfl
@[simp] theorem State.setPhase_bh (s : State) (v : Phase) : (s.setPhase v).bh = s.bh := rfl
@[simp] theorem State.setPhase_a (s : State) (v : Phase) : (s.setPhase v).a = s.a := rfl
@[simp] theorem State.setPhase_b (s : State) (v : Phase) : (s.setPhase v).b = s.b := rfl
@[simp] theorem State.setPhase_ct (s : State) (v : Phase) : (s.setPhase v).ct = s.ct := rfl
@[simp] theorem State.setPhase_lt (s : State) (v : Phase) : (s.setPhase v).lt = s.lt := rfl
@[simp] theorem State.setPhase_tmp (s : State) (v : Phase) : (s.setPhase v).tmp = s.tmp := rfl
@[simp] theorem State.setPhase_regs (s : State) (v : Phase) : (s.setPhase v).regs = s.regs := rfl
@[simp] theorem State.setPhase_src (s : State) (v : Phase) : (s.setPhase v).src = s.src := rfl
@[simp] theorem State.setPhase_dst (s : State) (v : Phase) : (s.setPhase v).dst = s.dst := rfl
@[simp] theorem State.setPhase_dst0 (s : State) (v : Phase) : (s.setPhase v).dst0 = s.dst0 := rfl
@[simp] theorem State.setPhase_ctl (s : State) (v : Phase) : (s.setPhase v).ctl = s.ctl := rfl
@[simp] theorem State.setPhase_loc (s : State) (v : Phase) : (s.setPhase v).loc = s.loc := rfl
@[simp] theorem State.setPhase_res (s : State) (v : Phase) : (s.setPhase v).res = s.res := rfl
@[simp] theorem State.setPhase_resOk (s : State) (v : Phase) : (s.setPhase v).resOk = s.resOk := rfl
@[simp] theorem State.setPhase_host (s : State) (v : Phase) : (s.setPhase v).host = s.host := rfl
@[simp] theorem State.setPhase_hostData (s : State) (v : Phase) : (s.setPhase v).hostData = s.hostData := rfl
@[simp] theorem State.setPhase_direct (s : State) (v : Phase) : (s.setPhase v).direct = s.direct := rfl
@[simp] theorem State.setPhase_fresh (s : State) (v : Phase) : (s.setPhase v).fresh = s.fresh := rfl
@[simp] theorem State.setPhase_busy (s : State) (v : Phase) : (s.setPhase v).busy = s.busy := rfl
@[simp] theorem State.setPhase_srcLen (s : State) (v : Phase) : (s.setPhase v).srcLen = s.srcLen := rfl
@[simp] theorem State.setPhase_dstLen (s : State) (v : Phase) : (s.setPhase v).dstLen = s.dstLen := rfl

/-! ### `State.setPos` -/

@[simp] theorem State.setPos_phase (s : State) (x y : Nat) : (s.setPos x y).phase = s.phase := rfl
@[simp] theorem State.setPos_sp (s : State) (x y : Nat) : (s.setPos x y).sp = x := rfl
@[simp] theorem State.setPos_off (s : State) (x y : Nat) : (s.setPos x y).off = y := rfl
@[simp] theorem State.setPos_sh (s : State) (x y : Nat) : (s.setPos x y).sh = s.sh := rfl
@[simp] theorem State.setPos_bh (s : State) (x y : Nat) : (s.setPos x y).bh = s.bh := rfl
@[simp] theorem State.setPos_a (s : State) (x y : Nat) : (s.setPos x y).a = s.a := rfl
@[simp] theorem State.setPos_b (s : State) (x y : Nat) : (s.setPos x y).b = s.b := rfl
@[simp] theorem State.setPos_ct (s : State) (x y : Nat) : (s.setPos x y).ct = s.ct := rfl
@[simp] theorem State.setPos_lt (s : State) (x y : Nat) : (s.setPos x y).lt = s.lt := rfl
@[simp] theorem State.setPos_tmp (s : State) (x y : Nat) : (s.setPos x y).tmp = s.tmp := rfl
@[simp] theorem State.setPos_regs (s : State) (x y : Nat) : (s.setPos x y).regs = s.regs := rfl
@[simp] theorem State.setPos_src (s : State) (x y : Nat) : (s.setPos x y).src = s.src := rfl
@[simp] theorem State.setPos_dst (s : State) (x y : Nat) : (s.setPos x y).dst = s.dst := rfl
@[simp] theorem State.setPos_dst0 (s : State) (x y : Nat) : (s.setPos x y).dst0 = s.dst0 := rfl
@[simp] theorem State.setPos_ctl (s : State) (x y : Nat) : (s.setPos x y).ctl = s.ctl := rfl
@[simp] theorem State.setPos_loc (s : State) (x y : Nat) : (s.setPos x y).loc = s.loc := rfl
@[simp] theorem State.setPos_res (s : State) (x y : Nat) : (s.setPos x y).res = s.res := rfl
@[simp] theorem State.setPos_resOk (s : State) (x y : Nat) : (s.setPos x y).resOk = s.resOk := rfl
@[simp] theorem State.setPos_host (s : State) (x y : Nat) : (s.setPos x y).host = s.host := rfl
@[simp] theorem State.setPos_hostData (s : State) (x y : Nat) : (s.setPos x y).hostData = s.hostData := rfl
@[simp] theorem State.setPos_direct (s : State) (x y : Nat) : (s.setPos x y).direct = s.direct := rfl
@[simp] theorem State.setPos_fresh (s : State) (x y : Nat) : (s.setPos x y).fresh = s.fresh := rfl
@[simp] theorem State.setPos_busy (s : State) (x y : Nat) : (s.setPos x y).busy = s.busy := rfl
@[simp] theorem State.setPos_srcLen (s : State) (x y : Nat) : (s.setPos x y).srcLen = s.srcLen := rfl
@[simp] theorem State.setPos_dstLen (s : State) (x y : Nat) : (s.setPos x y).dstLen = s.dstLen := rfl

/-! ### `State.setSh` -/

@[simp] theorem State.setSh_phase (s : State) (v : StreamHeader) : (s.setSh v).phase = s.phase := rfl
@[simp] theorem State.setSh_sp (s : State) (v : StreamHeader) : (s.setSh v).sp = s.sp := rfl
@[simp] theorem State.setSh_off (s : State) (v : StreamHeader) : (s.setSh v).off = s.off := rfl
@[simp] theorem State.setSh_sh (s : State) (v : StreamHeader) : (s.setSh v).sh = v := rfl
@[simp] theorem State.setSh_bh (s : State) (v : StreamHeader) : (s.setSh v).bh = s.bh := rfl
@[simp] theorem State.setSh_a (s : State) (v : StreamHeader) : (s.setSh v).a = s.a := rfl
@[simp] theorem State.setSh_b (s : State) (v : StreamHeader) : (s.setSh v).b = s.b := rfl
@[simp] theorem State.setSh_ct (s : State) (v : StreamHeader) : (s.setSh v).ct = s.ct := rfl
@[simp] theorem State.setSh_lt (s : State) (v : StreamHeader) : (s.setSh v).lt = s.lt := rfl
@[simp] theorem State.setSh_tmp (s : State) (v : StreamHeader) : (s.setSh v).tmp = s.tmp := rfl
@[simp] theorem State.setSh_regs (s : State) (v : StreamHeader) : (s.setSh v).regs = s.regs := rfl
@[simp] theorem State.setSh_src (s : State) (v : StreamHeader) : (s.setSh v).src = s.src := rfl
@[simp] theorem State.setSh_dst (s : State) (v : StreamHeader) : (s.setSh v).dst = s.dst := rfl
@[simp] theorem State.setSh_dst0 (s : State) (v : StreamHeader) : (s.setSh v).dst0 = s.dst0 := rfl
@[simp] theorem State.setSh_ctl (s : State) (v : StreamHeader) : (s.setSh v).ctl = s.ctl := rfl
@[simp] theorem State.setSh_loc (s : State) (v : StreamHeader) : (s.setSh v).loc = s.loc := rfl
@[simp] theorem State.setSh_res (s : State) (v : StreamHeader) : (s.setSh v).res = s.res := rfl
@[simp] theorem State.setSh_resOk (s : State) (v : StreamHeader) : (s.setSh v).resOk = s.resOk := rfl
@[simp] theorem State.setSh_host (s : State) (v : StreamHeader) : (s.setSh v).host = s.host := rfl
@[simp] theorem State.setSh_hostData (s : State) (v : StreamHeader) : (s.setSh v).hostData = s.hostData := rfl
@[simp] theorem State.setSh_direct (s : State) (v : StreamHeader) : (s.setSh v).direct = s.direct := rfl
@[simp] theorem State.setSh_fresh (s : State) (v : StreamHeader) : (s.setSh v).fresh = s.fresh := rfl
@[simp] theorem State.setSh_busy (s : State) (v : StreamHeader) : (s.setSh v).busy = s.busy := rfl
@[simp] theorem State.setSh_srcLen (s : State) (v : StreamHeader) : (s.setSh v).srcLen = s.srcLen := rfl
@[simp] theorem State.setSh_dstLen (s : State) (v : StreamHeader) : (s.setSh v).dstLen = s.dstLen := rfl

/-! ### `State.setBh` -/

@[simp] theorem State.setBh_phase (s : State) (v : BlockHeader) : (s.setBh v).phase = s.phase := rfl
@[simp] theorem State.setBh_sp (s : State) (v : BlockHeader) : (s.setBh v).sp = s.sp := rfl
@[simp] theorem State.setBh_off (s : State) (v : BlockHeader) : (s.setBh v).off = s.off := rfl
@[simp] theorem State.setBh_sh (s : State) (v : BlockHeader) : (s.setBh v).sh = s.sh := rfl
@[simp] theorem State.setBh_bh (s : State) (v : BlockHeader) : (s.setBh v).bh = v := rfl
@[simp] theorem State.setBh_a (s : State) (v : BlockHeader) : (s.setBh v).a = s.a := rfl
@[simp] theorem State.setBh_b (s : State) (v : BlockHeader) : (s.setBh v).b = s.b := rfl
@[simp] theorem State.setBh_ct (s : State) (v : BlockHeader) : (s.setBh v).ct = s.ct := rfl
@[simp] theorem State.setBh_lt (s : State) (v : BlockHeader) : (s.setBh v).lt = s.lt := rfl
@[simp] theorem State.setBh_tmp (s : State) (v : BlockHeader) : (s.setBh v).tmp = s.tmp := rfl
@[simp] theorem State.setBh_regs (s : State) (v : BlockHeader) : (s.setBh v).regs = s.regs := rfl
@[simp] theorem State.setBh_src (s : State) (v : BlockHeader) : (s.setBh v).src = s.src := rfl
@[simp] theorem State.setBh_dst (s : State) (v : BlockHeader) : (s.setBh v).dst = s.dst := rfl
@[simp] theorem State.setBh_dst0 (s : State) (v : BlockHeader) : (s.setBh v).dst0 = s.dst0 := rfl
@[simp] theorem State.setBh_ctl (s : State) (v : BlockHeader) : (s.setBh v).ctl = s.ctl := rfl
@[simp] theorem State.setBh_loc (s : State) (v : BlockHeader) : (s.setBh v).loc = s.loc := rfl
@[simp] theorem State.setBh_res (s : State) (v : BlockHeader) : (s.setBh v).res = s.res := rfl
@[simp] theorem State.setBh_resOk (s : State) (v : BlockHeader) : (s.setBh v).resOk = s.resOk := rfl
@[simp] theorem State.setBh_host (s : State) (v : BlockHeader) : (s.setBh v).host = s.host := rfl
@[simp] theorem State.setBh_hostData (s : State) (v : BlockHeader) : (s.setBh v).hostData = s.hostData := rfl
@[simp] theorem State.setBh_direct (s : State) (v : BlockHeader) : (s.setBh v).direct = s.direct := rfl
@[simp] theorem State.setBh_fresh (s : State) (v : BlockHeader) : (s.setBh v).fresh = s.fresh := rfl
@[simp] theorem State.setBh_busy (s : State) (v : BlockHeader) : (s.setBh v).busy = s.busy := rfl
@[simp] theorem State.setBh_srcLen (s : State) (v : BlockHeader) : (s.setBh v).srcLen = s.srcLen := rfl
@[simp] theorem State.setBh_dstLen (s : State) (v : BlockHeader) : (s.setBh v).dstLen = s.dstLen := rfl

/-! ### `State.setA` -/

@[simp] theorem State.setA_phase (s : State) (v : Cursor) : (s.setA v).phase = s.phase := rfl
@[simp] theorem State.setA_sp (s : State) (v : Cursor) : (s.setA v).sp = s.sp := rfl
@[simp] theorem State.setA_off (s : State) (v : Cursor) : (s.setA v).off = s.off := rfl
@[simp] theorem State.setA_sh (s : State) (v : Cursor) : (s.setA v).sh = s.sh := rfl
@[simp] theorem State.setA_bh (s : State) (v : Cursor) : (s.setA v).bh = s.bh := rfl
@[simp] theorem State.setA_a (s : State) (v : Cursor) : (s.setA v).a = v := rfl
@[simp] theorem State.setA_b (s : State) (v : Cursor) : (s.setA v).b = s.b := rfl
@[simp] theorem State.setA_ct (s : State) (v : Cursor) : (s.setA v).ct = s.ct := rfl
@[simp] theorem State.setA_lt (s : State) (v : Cursor) : (s.setA v).lt = s.lt := rfl
@[simp] theorem State.setA_tmp (s : State) (v : Cursor) : (s.setA v).tmp = s.tmp := rfl
@[simp] theorem State.setA_regs (s : State) (v : Cursor) : (s.setA v).regs = s.regs := rfl
@[simp] theorem State.setA_src (s : State) (v : Cursor) : (s.setA v).src = s.src := rfl
@[simp] theorem State.setA_dst (s : State) (v : Cursor) : (s.setA v).dst = s.dst := rfl
@[simp] theorem State.setA_dst0 (s : State) (v : Cursor) : (s.setA v).dst0 = s.dst0 := rfl
@[simp] theorem State.setA_ctl (s : State) (v : Cursor) : (s.setA v).ctl = s.ctl := rfl
@[simp] theorem State.setA_loc (s : State) (v : Cursor) : (s.setA v).loc = s.loc := rfl
@[simp] theorem State.setA_res (s : State) (v : Cursor) : (s.setA v).res = s.res := rfl
@[simp] theorem State.setA_resOk (s : State) (v : Cursor) : (s.setA v).resOk = s.resOk := rfl
@[simp] theorem State.setA_host (s : State) (v : Cursor) : (s.setA v).host = s.host := rfl
@[simp] theorem State.setA_hostData (s : State) (v : Cursor) : (s.setA v).hostData = s.hostData := rfl
@[simp] theorem State.setA_direct (s : State) (v : Cursor) : (s.setA v).direct = s.direct := rfl
@[simp] theorem State.setA_fresh (s : State) (v : Cursor) : (s.setA v).fresh = s.fresh := rfl
@[simp] theorem State.setA_busy (s : State) (v : Cursor) : (s.setA v).busy = s.busy := rfl
@[simp] theorem State.setA_srcLen (s : State) (v : Cursor) : (s.setA v).srcLen = s.srcLen := rfl
@[simp] theorem State.setA_dstLen (s : State) (v : Cursor) : (s.setA v).dstLen = s.dstLen := rfl

/-! ### `State.setB` -/

@[simp] theorem State.setB_phase (s : State) (v : Cursor) : (s.setB v).phase = s.phase := rfl
@[simp] theorem State.setB_sp (s : State) (v : Cursor) : (s.setB v).sp = s.sp := rfl
@[simp] theorem State.setB_off (s : State) (v : Cursor) : (s.setB v).off = s.off := rfl
@[simp] theorem State.setB_sh (s : State) (v : Cursor) : (s.setB v).sh = s.sh := rfl
@[simp] theorem State.setB_bh (s : State) (v : Cursor) : (s.setB v).bh = s.bh := rfl
@[simp] theorem State.setB_a (s : State) (v : Cursor) : (s.setB v).a = s.a := rfl
@[simp] theorem State.setB_b (s : State) (v : Cursor) : (s.setB v).b = v := rfl
@[simp] theorem State.setB_ct (s : State) (v : Cursor) : (s.setB v).ct = s.ct := rfl
@[simp] theorem State.setB_lt (s : State) (v : Cursor) : (s.setB v).lt = s.lt := rfl
@[simp] theorem State.setB_tmp (s : State) (v : Cursor) : (s.setB v).tmp = s.tmp := rfl
@[simp] theorem State.setB_regs (s : State) (v : Cursor) : (s.setB v).regs = s.regs := rfl
@[simp] theorem State.setB_src (s : State) (v : Cursor) : (s.setB v).src = s.src := rfl
@[simp] theorem State.setB_dst (s : State) (v : Cursor) : (s.setB v).dst = s.dst := rfl
@[simp] theorem State.setB_dst0 (s : State) (v : Cursor) : (s.setB v).dst0 = s.dst0 := rfl
@[simp] theorem State.setB_ctl (s : State) (v : Cursor) : (s.setB v).ctl = s.ctl := rfl
@[simp] theorem State.setB_loc (s : State) (v : Cursor) : (s.setB v).loc = s.loc := rfl
@[simp] theorem State.setB_res (s : State) (v : Cursor) : (s.setB v).res = s.res := rfl
@[simp] theorem State.setB_resOk (s : State) (v : Cursor) : (s.setB v).resOk = s.resOk := rfl
@[simp] theorem State.setB_host (s : State) (v : Cursor) : (s.setB v).host = s.host := rfl
@[simp] theorem State.setB_hostData (s : State) (v : Cursor) : (s.setB v).hostData = s.hostData := rfl
@[simp] theorem State.setB_direct (s : State) (v : Cursor) : (s.setB v).direct = s.direct := rfl
@[simp] theorem State.setB_fresh (s : State) (v : Cursor) : (s.setB v).fresh = s.fresh := rfl
@[simp] theorem State.setB_busy (s : State) (v : Cursor) : (s.setB v).busy = s.busy := rfl
@[simp] theorem State.setB_srcLen (s : State) (v : Cursor) : (s.setB v).srcLen = s.srcLen := rfl
@[simp] theorem State.setB_dstLen (s : State) (v : Cursor) : (s.setB v).dstLen = s.dstLen := rfl

/-! ### `State.setCt` -/

@[simp] theorem State.setCt_phase (s : State) (v : CodeTable) : (s.setCt v).phase = s.phase := rfl
@[simp] theorem State.setCt_sp (s : State) (v : CodeTable) : (s.setCt v).sp = s.sp := rfl
@[simp] theorem State.setCt_off (s : State) (v : CodeTable) : (s.setCt v).off = s.off := rfl
@[simp] theorem State.setCt_sh (s : State) (v : CodeTable) : (s.setCt v).sh = s.sh := rfl
@[simp] theorem State.setCt_bh (s : State) (v : CodeTable) : (s.setCt v).bh = s.bh := rfl
@[simp] theorem State.setCt_a (s : State) (v : CodeTable) : (s.setCt v).a = s.a := rfl
@[simp] theorem State.setCt_b (s : State) (v : CodeTable) : (s.setCt v).b = s.b := rfl
@[simp] theorem State.setCt_ct (s : State) (v : CodeTable) : (s.setCt v).ct = v := rfl
@[simp] theorem State.setCt_lt (s : State) (v : CodeTable) : (s.setCt v).lt = s.lt := rfl
@[simp] theorem State.setCt_tmp (s : State) (v : CodeTable) : (s.setCt v).tmp = s.tmp := rfl
@[simp] theorem State.setCt_regs (s : State) (v : CodeTable) : (s.setCt v).regs = s.regs := rfl
@[simp] theorem State.setCt_src (s : State) (v : CodeTable) : (s.setCt v).src = s.src := rfl
@[simp] theorem State.setCt_dst (s : State) (v : CodeTable) : (s.setCt v).dst = s.dst := rfl
@[simp] theorem State.setCt_dst0 (s : State) (v : CodeTable) : (s.setCt v).dst0 = s.dst0 := rfl
@[simp] theorem State.setCt_ctl (s : State) (v : CodeTable) : (s.setCt v).ctl = s.ctl := rfl
@[simp] theorem State.setCt_loc (s : State) (v : CodeTable) : (s.setCt v).loc = s.loc := rfl
@[simp] theorem State.setCt_res (s : State) (v : CodeTable) : (s.setCt v).res = s.res := rfl
@[simp] theorem State.setCt_resOk (s : State) (v : CodeTable) : (s.setCt v).resOk = s.resOk := rfl
@[simp] theorem State.setCt_host (s : State) (v : CodeTable) : (s.setCt v).host = s.host := rfl
@[simp] theorem State.setCt_hostData (s : State) (v : CodeTable) : (s.setCt v).hostData = s.hostData := rfl
@[simp] theorem State.setCt_direct (s : State) (v : CodeTable) : (s.setCt v).direct = s.direct := rfl
@[simp] theorem State.setCt_fresh (s : State) (v : CodeTable) : (s.setCt v).fresh = s.fresh := rfl
@[simp] theorem State.setCt_busy (s : State) (v : CodeTable) : (s.setCt v).busy = s.busy := rfl
@[simp] theorem State.setCt_srcLen (s : State) (v : CodeTable) : (s.setCt v).srcLen = s.srcLen := rfl
@[simp] theorem State.setCt_dstLen (s : State) (v : CodeTable) : (s.setCt v).dstLen = s.dstLen := rfl

/-! ### `State.setLt` -/

@[simp] theorem State.setLt_phase (s : State) (v : LzTable) : (s.setLt v).phase = s.phase := rfl
@[simp] theorem State.setLt_sp (s : State) (v : LzTable) : (s.setLt v).sp = s.sp := rfl
@[simp] theorem State.setLt_off (s : State) (v : LzTable) : (s.setLt v).off = s.off := rfl
@[simp] theorem State.setLt_sh (s : State) (v : LzTable) : (s.setLt v).sh = s.sh := rfl
@[simp] theorem State.setLt_bh (s : State) (v : LzTable) : (s.setLt v).bh = s.bh := rfl
@[simp] theorem State.setLt_a (s : State) (v : LzTable) : (s.setLt v).a = s.a := rfl
@[simp] theorem State.setLt_b (s : State) (v : LzTable) : (s.setLt v).b = s.b := rfl
@[simp] theorem State.setLt_ct (s : State) (v : LzTable) : (s.setLt v).ct = s.ct := rfl
@[simp] theorem State.setLt_lt (s : State) (v : LzTable) : (s.setLt v).lt = v := rfl
@[simp] theorem State.setLt_tmp (s : State) (v : LzTable) : (s.setLt v).tmp = s.tmp := rfl
@[simp] theorem State.setLt_regs (s : State) (v : LzTable) : (s.setLt v).regs = s.regs := rfl
@[simp] theorem State.setLt_src (s : State) (v : LzTable) : (s.setLt v).src = s.src := rfl
@[simp] theorem State.setLt_dst (s : State) (v : LzTable) : (s.setLt v).dst = s.dst := rfl
@[simp] theorem State.setLt_dst0 (s : State) (v : LzTable) : (s.setLt v).dst0 = s.dst0 := rfl
@[simp] theorem State.setLt_ctl (s : State) (v : LzTable) : (s.setLt v).ctl = s.ctl := rfl
@[simp] theorem State.setLt_loc (s : State) (v : LzTable) : (s.setLt v).loc = s.loc := rfl
@[simp] theorem State.setLt_res (s : State) (v : LzTable) : (s.setLt v).res = s.res := rfl
@[simp] theorem State.setLt_resOk (s : State) (v : LzTable) : (s.setLt v).resOk = s.resOk := rfl
@[simp] theorem State.setLt_host (s : State) (v : LzTable) : (s.setLt v).host = s.host := rfl
@[simp] theorem State.setLt_hostData (s : State) (v : LzTable) : (s.setLt v).hostData = s.hostData := rfl
@[simp] theorem State.setLt_direct (s : State) (v : LzTable) : (s.setLt v).direct = s.direct := rfl
@[simp] theorem State.setLt_fresh (s : State) (v : LzTable) : (s.setLt v).fresh = s.fresh := rfl
@[simp] theorem State.setLt_busy (s : State) (v : LzTable) : (s.setLt v).busy = s.busy := rfl
@[simp] theorem State.setLt_srcLen (s : State) (v : LzTable) : (s.setLt v).srcLen = s.srcLen := rfl
@[simp] theorem State.setLt_dstLen (s : State) (v : LzTable) : (s.setLt v).dstLen = s.dstLen := rfl

/-! ### `State.setTmp` -/

@[simp] theorem State.setTmp_phase (s : State) (v : Temps) : (s.setTmp v).phase = s.phase := rfl
@[simp] theorem State.setTmp_sp (s : State) (v : Temps) : (s.setTmp v).sp = s.sp := rfl
@[simp] theorem State.setTmp_off (s : State) (v : Temps) : (s.setTmp v).off = s.off := rfl
@[simp] theorem State.setTmp_sh (s : State) (v : Temps) : (s.setTmp v).sh = s.sh := rfl
@[simp] theorem State.setTmp_bh (s : State) (v : Temps) : (s.setTmp v).bh = s.bh := rfl
@[simp] theorem State.setTmp_a (s : State) (v : Temps) : (s.setTmp v).a = s.a := rfl
@[simp] theorem State.setTmp_b (s : State) (v : Temps) : (s.setTmp v).b = s.b := rfl
@[simp] theorem State.setTmp_ct (s : State) (v : Temps) : (s.setTmp v).ct = s.ct := rfl
@[simp] theorem State.setTmp_lt (s : State) (v : Temps) : (s.setTmp v).lt = s.lt := rfl
@[simp] theorem State.setTmp_tmp (s : State) (v : Temps) : (s.setTmp v).tmp = v := rfl
@[simp] theorem State.setTmp_regs (s : State) (v : Temps) : (s.setTmp v).regs = s.regs := rfl
@[simp] theorem State.setTmp_src (s : State) (v : Temps) : (s.setTmp v).src = s.src := rfl
@[simp] theorem State.setTmp_dst (s : State) (v : Temps) : (s.setTmp v).dst = s.dst := rfl
@[simp] theorem State.setTmp_dst0 (s : State) (v : Temps) : (s.setTmp v).dst0 = s.dst0 := rfl
@[simp] theorem State.setTmp_ctl (s : State) (v : Temps) : (s.setTmp v).ctl = s.ctl := rfl
@[simp] theorem State.setTmp_loc (s : State) (v : Temps) : (s.setTmp v).loc = s.loc := rfl
@[simp] theorem State.setTmp_res (s : State) (v : Temps) : (s.setTmp v).res = s.res := rfl
@[simp] theorem State.setTmp_resOk (s : State) (v : Temps) : (s.setTmp v).resOk = s.resOk := rfl
@[simp] theorem State.setTmp_host (s : State) (v : Temps) : (s.setTmp v).host = s.host := rfl
@[simp] theorem State.setTmp_hostData (s : State) (v : Temps) : (s.setTmp v).hostData = s.hostData := rfl
@[simp] theorem State.setTmp_direct (s : State) (v : Temps) : (s.setTmp v).direct = s.direct := rfl
@[simp] theorem State.setTmp_fresh (s : State) (v : Temps) : (s.setTmp v).fresh = s.fresh := rfl
@[simp] theorem State.setTmp_busy (s : State) (v : Temps) : (s.setTmp v).busy = s.busy := rfl
@[simp] theorem State.setTmp_srcLen (s : State) (v : Temps) : (s.setTmp v).srcLen = s.srcLen := rfl
@[simp] theorem State.setTmp_dstLen (s : State) (v : Temps) : (s.setTmp v).dstLen = s.dstLen := rfl

/-! ### `State.setRegs` -/

@[simp] theorem State.setRegs_phase (s : State) (v : HostRegs) : (s.setRegs v).phase = s.phase := rfl
@[simp] theorem State.setRegs_sp (s : State) (v : HostRegs) : (s.setRegs v).sp = s.sp := rfl
@[simp] theorem State.setRegs_off (s : State) (v : HostRegs) : (s.setRegs v).off = s.off := rfl
@[simp] theorem State.setRegs_sh (s : State) (v : HostRegs) : (s.setRegs v).sh = s.sh := rfl
@[simp] theorem State.setRegs_bh (s : State) (v : HostRegs) : (s.setRegs v).bh = s.bh := rfl
@[simp] theorem State.setRegs_a (s : State) (v : HostRegs) : (s.setRegs v).a = s.a := rfl
@[simp] theorem State.setRegs_b (s : State) (v : HostRegs) : (s.setRegs v).b = s.b := rfl
@[simp] theorem State.setRegs_ct (s : State) (v : HostRegs) : (s.setRegs v).ct = s.ct := rfl
@[simp] theorem State.setRegs_lt (s : State) (v : HostRegs) : (s.setRegs v).lt = s.lt := rfl
@[simp] theorem State.setRegs_tmp (s : State) (v : HostRegs) : (s.setRegs v).tmp = s.tmp := rfl
@[simp] theorem State.setRegs_regs (s : State) (v : HostRegs) : (s.setRegs v).regs = v := rfl
@[simp] theorem State.setRegs_src (s : State) (v : HostRegs) : (s.setRegs v).src = s.src := rfl
@[simp] theorem State.setRegs_dst (s : State) (v : HostRegs) : (s.setRegs v).dst = s.dst := rfl
@[simp] theorem State.setRegs_dst0 (s : State) (v : HostRegs) : (s.setRegs v).dst0 = s.dst0 := rfl
@[simp] theorem State.setRegs_ctl (s : State) (v : HostRegs) : (s.setRegs v).ctl = s.ctl := rfl
@[simp] theorem State.setRegs_loc (s : State) (v : HostRegs) : (s.setRegs v).loc = s.loc := rfl
@[simp] theorem State.setRegs_res (s : State) (v : HostRegs) : (s.setRegs v).res = s.res := rfl
@[simp] theorem State.setRegs_resOk (s : State) (v : HostRegs) : (s.setRegs v).resOk = s.resOk := rfl
@[simp] theorem State.setRegs_host (s : State) (v : HostRegs) : (s.setRegs v).host = s.host := rfl
@[simp] theorem State.setRegs_hostData (s : State) (v : HostRegs) : (s.setRegs v).hostData = s.hostData := rfl
@[simp] theorem State.setRegs_direct (s : State) (v : HostRegs) : (s.setRegs v).direct = s.direct := rfl
@[simp] theorem State.setRegs_fresh (s : State) (v : HostRegs) : (s.setRegs v).fresh = s.fresh := rfl

/-! ### `State.setSrc` -/

@[simp] theorem State.setSrc_phase (s : State) (v : Memory) : (s.setSrc v).phase = s.phase := rfl
@[simp] theorem State.setSrc_sp (s : State) (v : Memory) : (s.setSrc v).sp = s.sp := rfl
@[simp] theorem State.setSrc_off (s : State) (v : Memory) : (s.setSrc v).off = s.off := rfl
@[simp] theorem State.setSrc_sh (s : State) (v : Memory) : (s.setSrc v).sh = s.sh := rfl
@[simp] theorem State.setSrc_bh (s : State) (v : Memory) : (s.setSrc v).bh = s.bh := rfl
@[simp] theorem State.setSrc_a (s : State) (v : Memory) : (s.setSrc v).a = s.a := rfl
@[simp] theorem State.setSrc_b (s : State) (v : Memory) : (s.setSrc v).b = s.b := rfl
@[simp] theorem State.setSrc_ct (s : State) (v : Memory) : (s.setSrc v).ct = s.ct := rfl
@[simp] theorem State.setSrc_lt (s : State) (v : Memory) : (s.setSrc v).lt = s.lt := rfl
@[simp] theorem State.setSrc_tmp (s : State) (v : Memory) : (s.setSrc v).tmp = s.tmp := rfl
@[simp] theorem State.setSrc_regs (s : State) (v : Memory) : (s.setSrc v).regs = s.regs := rfl
@[simp] theorem State.setSrc_src (s : State) (v : Memory) : (s.setSrc v).src = v := rfl
@[simp] theorem State.setSrc_dst (s : State) (v : Memory) : (s.setSrc v).dst = s.dst := rfl
@[simp] theorem State.setSrc_dst0 (s : State) (v : Memory) : (s.setSrc v).dst0 = s.dst0 := rfl
@[simp] theorem State.setSrc_ctl (s : State) (v : Memory) : (s.setSrc v).ctl = s.ctl := rfl
@[simp] theorem State.setSrc_loc (s : State) (v : Memory) : (s.setSrc v).loc = s.loc := rfl
@[simp] theorem State.setSrc_res (s : State) (v : Memory) : (s.setSrc v).res = s.res := rfl
@[simp] theorem State.setSrc_resOk (s : State) (v : Memory) : (s.setSrc v).resOk = s.resOk := rfl
@[simp] theorem State.setSrc_host (s : State) (v : Memory) : (s.setSrc v).host = s.host := rfl
@[simp] theorem State.setSrc_hostData (s : State) (v : Memory) : (s.setSrc v).hostData = s.hostData := rfl
@[simp] theorem State.setSrc_direct (s : State) (v : Memory) : (s.setSrc v).direct = s.direct := rfl
@[simp] theorem State.setSrc_fresh (s : State) (v : Memory) : (s.setSrc v).fresh = s.fresh := rfl
@[simp] theorem State.setSrc_busy (s : State) (v : Memory) : (s.setSrc v).busy = s.busy := rfl
@[simp] theorem State.setSrc_srcLen (s : State) (v : Memory) : (s.setSrc v).srcLen = s.srcLen := rfl
@[simp] theorem State.setSrc_dstLen (s : State) (v : Memory) : (s.setSrc v).dstLen = s.dstLen := rfl

/-! ### `State.setDst` -/

@[simp] theorem State.setDst_phase (s : State) (v : Memory) : (s.setDst v).phase = s.phase := rfl
@[simp] theorem State.setDst_sp (s : State) (v : Memory) : (s.setDst v).sp = s.sp := rfl
@[simp] theorem State.setDst_off (s : State) (v : Memory) : (s.setDst v).off = s.off := rfl
@[simp] theorem State.setDst_sh (s : State) (v : Memory) : (s.setDst v).sh = s.sh := rfl
@[simp] theorem State.setDst_bh (s : State) (v : Memory) : (s.setDst v).bh = s.bh := rfl
@[simp] theorem State.setDst_a (s : State) (v : Memory) : (s.setDst v).a = s.a := rfl
@[simp] theorem State.setDst_b (s : State) (v : Memory) : (s.setDst v).b = s.b := rfl
@[simp] theorem State.setDst_ct (s : State) (v : Memory) : (s.setDst v).ct = s.ct := rfl
@[simp] theorem State.setDst_lt (s : State) (v : Memory) : (s.setDst v).lt = s.lt := rfl
@[simp] theorem State.setDst_tmp (s : State) (v : Memory) : (s.setDst v).tmp = s.tmp := rfl
@[simp] theorem State.setDst_regs (s : State) (v : Memory) : (s.setDst v).regs = s.regs := rfl
@[simp] theorem State.setDst_src (s : State) (v : Memory) : (s.setDst v).src = s.src := rfl
@[simp] theorem State.setDst_dst (s : State) (v : Memory) : (s.setDst v).dst = v := rfl
@[simp] theorem State.setDst_dst0 (s : State) (v : Memory) : (s.setDst v).dst0 = s.dst0 := rfl
@[simp] theorem State.setDst_ctl (s : State) (v : Memory) : (s.setDst v).ctl = s.ctl := rfl
@[simp] theorem State.setDst_loc (s : State) (v : Memory) : (s.setDst v).loc = s.loc := rfl
@[simp] theorem State.setDst_res (s : State) (v : Memory) : (s.setDst v).res = s.res := rfl
@[simp] theorem State.setDst_resOk (s : State) (v : Memory) : (s.setDst v).resOk = s.resOk := rfl
@[simp] theorem State.setDst_host (s : State) (v : Memory) : (s.setDst v).host = s.host := rfl
@[simp] theorem State.setDst_hostData (s : State) (v : Memory) : (s.setDst v).hostData = s.hostData := rfl
@[simp] theorem State.setDst_direct (s : State) (v : Memory) : (s.setDst v).direct = s.direct := rfl
@[simp] theorem State.setDst_fresh (s : State) (v : Memory) : (s.setDst v).fresh = s.fresh := rfl
@[simp] theorem State.setDst_busy (s : State) (v : Memory) : (s.setDst v).busy = s.busy := rfl
@[simp] theorem State.setDst_srcLen (s : State) (v : Memory) : (s.setDst v).srcLen = s.srcLen := rfl
@[simp] theorem State.setDst_dstLen (s : State) (v : Memory) : (s.setDst v).dstLen = s.dstLen := rfl

/-! ### `State.setDst0` -/

@[simp] theorem State.setDst0_phase (s : State) (v : Memory) : (s.setDst0 v).phase = s.phase := rfl
@[simp] theorem State.setDst0_sp (s : State) (v : Memory) : (s.setDst0 v).sp = s.sp := rfl
@[simp] theorem State.setDst0_off (s : State) (v : Memory) : (s.setDst0 v).off = s.off := rfl
@[simp] theorem State.setDst0_sh (s : State) (v : Memory) : (s.setDst0 v).sh = s.sh := rfl
@[simp] theorem State.setDst0_bh (s : State) (v : Memory) : (s.setDst0 v).bh = s.bh := rfl
@[simp] theorem State.setDst0_a (s : State) (v : Memory) : (s.setDst0 v).a = s.a := rfl
@[simp] theorem State.setDst0_b (s : State) (v : Memory) : (s.setDst0 v).b = s.b := rfl
@[simp] theorem State.setDst0_ct (s : State) (v : Memory) : (s.setDst0 v).ct = s.ct := rfl
@[simp] theorem State.setDst0_lt (s : State) (v : Memory) : (s.setDst0 v).lt = s.lt := rfl
@[simp] theorem State.setDst0_tmp (s : State) (v : Memory) : (s.setDst0 v).tmp = s.tmp := rfl
@[simp] theorem State.setDst0_regs (s : State) (v : Memory) : (s.setDst0 v).regs = s.regs := rfl
@[simp] theorem State.setDst0_src (s : State) (v : Memory) : (s.setDst0 v).src = s.src := rfl
@[simp] theorem State.setDst0_dst (s : State) (v : Memory) : (s.setDst0 v).dst = s.dst := rfl
@[simp] theorem State.setDst0_dst0 (s : State) (v : Memory) : (s.setDst0 v).dst0 = v := rfl
@[simp] theorem State.setDst0_ctl (s : State) (v : Memory) : (s.setDst0 v).ctl = s.ctl := rfl
@[simp] theorem State.setDst0_loc (s : State) (v : Memory) : (s.setDst0 v).loc = s.loc := rfl
@[simp] theorem State.setDst0_res (s : State) (v : Memory) : (s.setDst0 v).res = s.res := rfl
@[simp] theorem State.setDst0_resOk (s : State) (v : Memory) : (s.setDst0 v).resOk = s.resOk := rfl
@[simp] theorem State.setDst0_host (s : State) (v : Memory) : (s.setDst0 v).host = s.host := rfl
@[simp] theorem State.setDst0_hostData (s : State) (v : Memory) : (s.setDst0 v).hostData = s.hostData := rfl
@[simp] theorem State.setDst0_direct (s : State) (v : Memory) : (s.setDst0 v).direct = s.direct := rfl
@[simp] theorem State.setDst0_fresh (s : State) (v : Memory) : (s.setDst0 v).fresh = s.fresh := rfl
@[simp] theorem State.setDst0_busy (s : State) (v : Memory) : (s.setDst0 v).busy = s.busy := rfl
@[simp] theorem State.setDst0_srcLen (s : State) (v : Memory) : (s.setDst0 v).srcLen = s.srcLen := rfl
@[simp] theorem State.setDst0_dstLen (s : State) (v : Memory) : (s.setDst0 v).dstLen = s.dstLen := rfl

/-! ### `State.setCtl` -/

@[simp] theorem State.setCtl_phase (s : State) (v : Ctl) : (s.setCtl v).phase = s.phase := rfl
@[simp] theorem State.setCtl_sp (s : State) (v : Ctl) : (s.setCtl v).sp = s.sp := rfl
@[simp] theorem State.setCtl_off (s : State) (v : Ctl) : (s.setCtl v).off = s.off := rfl
@[simp] theorem State.setCtl_sh (s : State) (v : Ctl) : (s.setCtl v).sh = s.sh := rfl
@[simp] theorem State.setCtl_bh (s : State) (v : Ctl) : (s.setCtl v).bh = s.bh := rfl
@[simp] theorem State.setCtl_a (s : State) (v : Ctl) : (s.setCtl v).a = s.a := rfl
@[simp] theorem State.setCtl_b (s : State) (v : Ctl) : (s.setCtl v).b = s.b := rfl
@[simp] theorem State.setCtl_ct (s : State) (v : Ctl) : (s.setCtl v).ct = s.ct := rfl
@[simp] theorem State.setCtl_lt (s : State) (v : Ctl) : (s.setCtl v).lt = s.lt := rfl
@[simp] theorem State.setCtl_tmp (s : State) (v : Ctl) : (s.setCtl v).tmp = s.tmp := rfl
@[simp] theorem State.setCtl_regs (s : State) (v : Ctl) : (s.setCtl v).regs = s.regs := rfl
@[simp] theorem State.setCtl_src (s : State) (v : Ctl) : (s.setCtl v).src = s.src := rfl
@[simp] theorem State.setCtl_dst (s : State) (v : Ctl) : (s.setCtl v).dst = s.dst := rfl
@[simp] theorem State.setCtl_dst0 (s : State) (v : Ctl) : (s.setCtl v).dst0 = s.dst0 := rfl
@[simp] theorem State.setCtl_ctl (s : State) (v : Ctl) : (s.setCtl v).ctl = v := rfl
@[simp] theorem State.setCtl_loc (s : State) (v : Ctl) : (s.setCtl v).loc = s.loc := rfl
@[simp] theorem State.setCtl_res (s : State) (v : Ctl) : (s.setCtl v).res = s.res := rfl
@[simp] theorem State.setCtl_resOk (s : State) (v : Ctl) : (s.setCtl v).resOk = s.resOk := rfl
@[simp] theorem State.setCtl_host (s : State) (v : Ctl) : (s.setCtl v).host = s.host := rfl
@[simp] theorem State.setCtl_hostData (s : State) (v : Ctl) : (s.setCtl v).hostData = s.hostData := rfl
@[simp] theorem State.setCtl_direct (s : State) (v : Ctl) : (s.setCtl v).direct = s.direct := rfl
@[simp] theorem State.setCtl_fresh (s : State) (v : Ctl) : (s.setCtl v).fresh = s.fresh := rfl
@[simp] theorem State.setCtl_busy (s : State) (v : Ctl) : (s.setCtl v).busy = s.busy := rfl
@[simp] theorem State.setCtl_srcLen (s : State) (v : Ctl) : (s.setCtl v).srcLen = s.srcLen := rfl
@[simp] theorem State.setCtl_dstLen (s : State) (v : Ctl) : (s.setCtl v).dstLen = s.dstLen := rfl

/-! ### `State.setLoc` -/

@[simp] theorem State.setLoc_phase (s : State) (v : Locals) : (s.setLoc v).phase = s.phase := rfl
@[simp] theorem State.setLoc_sp (s : State) (v : Locals) : (s.setLoc v).sp = s.sp := rfl
@[simp] theorem State.setLoc_off (s : State) (v : Locals) : (s.setLoc v).off = s.off := rfl
@[simp] theorem State.setLoc_sh (s : State) (v : Locals) : (s.setLoc v).sh = s.sh := rfl
@[simp] theorem State.setLoc_bh (s : State) (v : Locals) : (s.setLoc v).bh = s.bh := rfl
@[simp] theorem State.setLoc_a (s : State) (v : Locals) : (s.setLoc v).a = s.a := rfl
@[simp] theorem State.setLoc_b (s : State) (v : Locals) : (s.setLoc v).b = s.b := rfl
@[simp] theorem State.setLoc_ct (s : State) (v : Locals) : (s.setLoc v).ct = s.ct := rfl
@[simp] theorem State.setLoc_lt (s : State) (v : Locals) : (s.setLoc v).lt = s.lt := rfl
@[simp] theorem State.setLoc_tmp (s : State) (v : Locals) : (s.setLoc v).tmp = s.tmp := rfl
@[simp] theorem State.setLoc_regs (s : State) (v : Locals) : (s.setLoc v).regs = s.regs := rfl
@[simp] theorem State.setLoc_src (s : State) (v : Locals) : (s.setLoc v).src = s.src := rfl
@[simp] theorem State.setLoc_dst (s : State) (v : Locals) : (s.setLoc v).dst = s.dst := rfl
@[simp] theorem State.setLoc_dst0 (s : State) (v : Locals) : (s.setLoc v).dst0 = s.dst0 := rfl
@[simp] theorem State.setLoc_ctl (s : State) (v : Locals) : (s.setLoc v).ctl = s.ctl := rfl
@[simp] theorem State.setLoc_loc (s : State) (v : Locals) : (s.setLoc v).loc = v := rfl
@[simp] theorem State.setLoc_res (s : State) (v : Locals) : (s.setLoc v).res = s.res := rfl
@[simp] theorem State.setLoc_resOk (s : State) (v : Locals) : (s.setLoc v).resOk = s.resOk := rfl
@[simp] theorem State.setLoc_host (s : State) (v : Locals) : (s.setLoc v).host = s.host := rfl
@[simp] theorem State.setLoc_hostData (s : State) (v : Locals) : (s.setLoc v).hostData = s.hostData := rfl
@[simp] theorem State.setLoc_direct (s : State) (v : Locals) : (s.setLoc v).direct = s.direct := rfl
@[simp] theorem State.setLoc_fresh (s : State) (v : Locals) : (s.setLoc v).fresh = s.fresh := rfl
@[simp] theorem State.setLoc_busy (s : State) (v : Locals) : (s.setLoc v).busy = s.busy := rfl
@[simp] theorem State.setLoc_srcLen (s : State) (v : Locals) : (s.setLoc v).srcLen = s.srcLen := rfl
@[simp] theorem State.setLoc_dstLen (s : State) (v : Locals) : (s.setLoc v).dstLen = s.dstLen := rfl

/-! ### `State.setRes` -/

@[simp] theorem State.setRes_phase (s : State) (x : Bool) (v : Int) : (s.setRes x v).phase = s.phase := rfl
@[simp] theorem State.setRes_sp (s : State) (x : Bool) (v : Int) : (s.setRes x v).sp = s.sp := rfl
@[simp] theorem State.setRes_off (s : State) (x : Bool) (v : Int) : (s.setRes x v).off = s.off := rfl
@[simp] theorem State.setRes_sh (s : State) (x : Bool) (v : Int) : (s.setRes x v).sh = s.sh := rfl
@[simp] theorem State.setRes_bh (s : State) (x : Bool) (v : Int) : (s.setRes x v).bh = s.bh := rfl
@[simp] theorem State.setRes_a (s : State) (x : Bool) (v : Int) : (s.setRes x v).a = s.a := rfl
@[simp] theorem State.setRes_b (s : State) (x : Bool) (v : Int) : (s.setRes x v).b = s.b := rfl
@[simp] theorem State.setRes_ct (s : State) (x : Bool) (v : Int) : (s.setRes x v).ct = s.ct := rfl
@[simp] theorem State.setRes_lt (s : State) (x : Bool) (v : Int) : (s.setRes x v).lt = s.lt := rfl
@[simp] theorem State.setRes_tmp (s : State) (x : Bool) (v : Int) : (s.setRes x v).tmp = s.tmp := rfl
@[simp] theorem State.setRes_regs (s : State) (x : Bool) (v : Int) : (s.setRes x v).regs = s.regs := rfl
@[simp] theorem State.setRes_src (s : State) (x : Bool) (v : Int) : (s.setRes x v).src = s.src := rfl
@[simp] theorem State.setRes_dst (s : State) (x : Bool) (v : Int) : (s.setRes x v).dst = s.dst := rfl
@[simp] theorem State.setRes_dst0 (s : State) (x : Bool) (v : Int) : (s.setRes x v).dst0 = s.dst0 := rfl
@[simp] theorem State.setRes_ctl (s : State) (x : Bool) (v : Int) : (s.setRes x v).ctl = s.ctl := rfl
@[simp] theorem State.setRes_loc (s : State) (x : Bool) (v : Int) : (s.setRes x v).loc = s.loc := rfl
@[simp] theorem State.setRes_res (s : State) (x : Bool) (v : Int) : (s.setRes x v).res = v := rfl
@[simp] theorem State.setRes_resOk (s : State) (x : Bool) (v : Int) : (s.setRes x v).resOk = x := rfl
@[simp] theorem State.setRes_host (s : State) (x : Bool) (v : Int) : (s.setRes x v).host = s.host := rfl
@[simp] theorem State.setRes_hostData (s : State) (x : Bool) (v : Int) : (s.setRes x v).hostData = s.hostData := rfl
@[simp] theorem State.setRes_direct (s : State) (x : Bool) (v : Int) : (s.setRes x v).direct = s.direct := rfl
@[simp] theorem State.setRes_fresh (s : State) (x : Bool) (v : Int) : (s.setRes x v).fresh = s.fresh := rfl
@[simp] theorem State.setRes_busy (s : State) (x : Bool) (v : Int) : (s.setRes x v).busy = s.busy := rfl
@[simp] theorem State.setRes_srcLen (s : State) (x : Bool) (v : Int) : (s.setRes x v).srcLen = s.srcLen := rfl
@[simp] theorem State.setRes_dstLen (s : State) (x : Bool) (v : Int) : (s.setRes x v).dstLen = s.dstLen := rfl

/-! ### `State.setHost` -/

@[simp] theorem State.setHost_phase (s : State) (v : List HostEvent) : (s.setHost v).phase = s.phase := rfl
@[simp] theorem State.setHost_sp (s : State) (v : List HostEvent) : (s.setHost v).sp = s.sp := rfl
@[simp] theorem State.setHost_off (s : State) (v : List HostEvent) : (s.setHost v).off = s.off := rfl
@[simp] theorem State.setHost_sh (s : State) (v : List HostEvent) : (s.setHost v).sh = s.sh := rfl
@[simp] theorem State.setHost_bh (s : State) (v : List HostEvent) : (s.setHost v).bh = s.bh := rfl
@[simp] theorem State.setHost_a (s : State) (v : List HostEvent) : (s.setHost v).a = s.a := rfl
@[simp] theorem State.setHost_b (s : State) (v : List HostEvent) : (s.setHost v).b = s.b := rfl
@[simp] theorem State.setHost_ct (s : State) (v : List HostEvent) : (s.setHost v).ct = s.ct := rfl
@[simp] theorem State.setHost_lt (s : State) (v : List HostEvent) : (s.setHost v).lt = s.lt := rfl
@[simp] theorem State.setHost_tmp (s : State) (v : List HostEvent) : (s.setHost v).tmp = s.tmp := rfl
@[simp] theorem State.setHost_regs (s : State) (v : List HostEvent) : (s.setHost v).regs = s.regs := rfl
@[simp] theorem State.setHost_src (s : State) (v : List HostEvent) : (s.setHost v).src = s.src := rfl
@[simp] theorem State.setHost_dst (s : State) (v : List HostEvent) : (s.setHost v).dst = s.dst := rfl
@[simp] theorem State.setHost_dst0 (s : State) (v : List HostEvent) : (s.setHost v).dst0 = s.dst0 := rfl
@[simp] theorem State.setHost_ctl (s : State) (v : List HostEvent) : (s.setHost v).ctl = s.ctl := rfl
@[simp] theorem State.setHost_loc (s : State) (v : List HostEvent) : (s.setHost v).loc = s.loc := rfl
@[simp] theorem State.setHost_res (s : State) (v : List HostEvent) : (s.setHost v).res = s.res := rfl
@[simp] theorem State.setHost_resOk (s : State) (v : List HostEvent) : (s.setHost v).resOk = s.resOk := rfl
@[simp] theorem State.setHost_host (s : State) (v : List HostEvent) : (s.setHost v).host = v := rfl
@[simp] theorem State.setHost_hostData (s : State) (v : List HostEvent) : (s.setHost v).hostData = s.hostData := rfl
@[simp] theorem State.setHost_direct (s : State) (v : List HostEvent) : (s.setHost v).direct = s.direct := rfl
@[simp] theorem State.setHost_fresh (s : State) (v : List HostEvent) : (s.setHost v).fresh = s.fresh := rfl
@[simp] theorem State.setHost_busy (s : State) (v : List HostEvent) : (s.setHost v).busy = s.busy := rfl
@[simp] theorem State.setHost_srcLen (s : State) (v : List HostEvent) : (s.setHost v).srcLen = s.srcLen := rfl
@[simp] theorem State.setHost_dstLen (s : State) (v : List HostEvent) : (s.setHost v).dstLen = s.dstLen := rfl

/-! ### `State.setHostData` -/

@[simp] theorem State.setHostData_phase (s : State) (v : Word) : (s.setHostData v).phase = s.phase := rfl
@[simp] theorem State.setHostData_sp (s : State) (v : Word) : (s.setHostData v).sp = s.sp := rfl
@[simp] theorem State.setHostData_off (s : State) (v : Word) : (s.setHostData v).off = s.off := rfl
@[simp] theorem State.setHostData_sh (s : State) (v : Word) : (s.setHostData v).sh = s.sh := rfl
@[simp] theorem State.setHostData_bh (s : State) (v : Word) : (s.setHostData v).bh = s.bh := rfl
@[simp] theorem State.setHostData_a (s : State) (v : Word) : (s.setHostData v).a = s.a := rfl
@[simp] theorem State.setHostData_b (s : State) (v : Word) : (s.setHostData v).b = s.b := rfl
@[simp] theorem State.setHostData_ct (s : State) (v : Word) : (s.setHostData v).ct = s.ct := rfl
@[simp] theorem State.setHostData_lt (s : State) (v : Word) : (s.setHostData v).lt = s.lt := rfl
@[simp] theorem State.setHostData_tmp (s : State) (v : Word) : (s.setHostData v).tmp = s.tmp := rfl
@[simp] theorem State.setHostData_regs (s : State) (v : Word) : (s.setHostData v).regs = s.regs := rfl
@[simp] theorem State.setHostData_src (s : State) (v : Word) : (s.setHostData v).src = s.src := rfl
@[simp] theorem State.setHostData_dst (s : State) (v : Word) : (s.setHostData v).dst = s.dst := rfl
@[simp] theorem State.setHostData_dst0 (s : State) (v : Word) : (s.setHostData v).dst0 = s.dst0 := rfl
@[simp] theorem State.setHostData_ctl (s : State) (v : Word) : (s.setHostData v).ctl = s.ctl := rfl
@[simp] theorem State.setHostData_loc (s : State) (v : Word) : (s.setHostData v).loc = s.loc := rfl
@[simp] theorem State.setHostData_res (s : State) (v : Word) : (s.setHostData v).res = s.res := rfl
@[simp] theorem State.setHostData_resOk (s : State) (v : Word) : (s.setHostData v).resOk = s.resOk := rfl
@[simp] theorem State.setHostData_host (s : State) (v : Word) : (s.setHostData v).host = s.host := rfl
@[simp] theorem State.setHostData_hostData (s : State) (v : Word) : (s.setHostData v).hostData = v := rfl
@[simp] theorem State.setHostData_direct (s : State) (v : Word) : (s.setHostData v).direct = s.direct := rfl
@[simp] theorem State.setHostData_fresh (s : State) (v : Word) : (s.setHostData v).fresh = s.fresh := rfl
@[simp] theorem State.setHostData_busy (s : State) (v : Word) : (s.setHostData v).busy = s.busy := rfl
@[simp] theorem State.setHostData_srcLen (s : State) (v : Word) : (s.setHostData v).srcLen = s.srcLen := rfl
@[simp] theorem State.setHostData_dstLen (s : State) (v : Word) : (s.setHostData v).dstLen = s.dstLen := rfl

/-! ### `State.setDirect` -/

@[simp] theorem State.setDirect_phase (s : State) (v : List Instr) : (s.setDirect v).phase = s.phase := rfl
@[simp] theorem State.setDirect_sp (s : State) (v : List Instr) : (s.setDirect v).sp = s.sp := rfl
@[simp] theorem State.setDirect_off (s : State) (v : List Instr) : (s.setDirect v).off = s.off := rfl
@[simp] theorem State.setDirect_sh (s : State) (v : List Instr) : (s.setDirect v).sh = s.sh := rfl
@[simp] theorem State.setDirect_bh (s : State) (v : List Instr) : (s.setDirect v).bh = s.bh := rfl
@[simp] theorem State.setDirect_a (s : State) (v : List Instr) : (s.setDirect v).a = s.a := rfl
@[simp] theorem State.setDirect_b (s : State) (v : List Instr) : (s.setDirect v).b = s.b := rfl
@[simp] theorem State.setDirect_ct (s : State) (v : List Instr) : (s.setDirect v).ct = s.ct := rfl
@[simp] theorem State.setDirect_lt (s : State) (v : List Instr) : (s.setDirect v).lt = s.lt := rfl
@[simp] theorem State.setDirect_tmp (s : State) (v : List Instr) : (s.setDirect v).tmp = s.tmp := rfl
@[simp] theorem State.setDirect_regs (s : State) (v : List Instr) : (s.setDirect v).regs = s.regs := rfl
@[simp] theorem State.setDirect_src (s : State) (v : List Instr) : (s.setDirect v).src = s.src := rfl
@[simp] theorem State.setDirect_dst (s : State) (v : List Instr) : (s.setDirect v).dst = s.dst := rfl
@[simp] theorem State.setDirect_dst0 (s : State) (v : List Instr) : (s.setDirect v).dst0 = s.dst0 := rfl
@[simp] theorem State.setDirect_ctl (s : State) (v : List Instr) : (s.setDirect v).ctl = s.ctl := rfl
@[simp] theorem State.setDirect_loc (s : State) (v : List Instr) : (s.setDirect v).loc = s.loc := rfl
@[simp] theorem State.setDirect_res (s : State) (v : List Instr) : (s.setDirect v).res = s.res := rfl
@[simp] theorem State.setDirect_resOk (s : State) (v : List Instr) : (s.setDirect v).resOk = s.resOk := rfl
@[simp] theorem State.setDirect_host (s : State) (v : List Instr) : (s.setDirect v).host = s.host := rfl
@[simp] theorem State.setDirect_hostData (s : State) (v : List Instr) : (s.setDirect v).hostData = s.hostData := rfl
@[simp] theorem State.setDirect_direct (s : State) (v : List Instr) : (s.setDirect v).direct = v := rfl
@[simp] theorem State.setDirect_fresh (s : State) (v : List Instr) : (s.setDirect v).fresh = s.fresh := rfl
@[simp] theorem State.setDirect_busy (s : State) (v : List Instr) : (s.setDirect v).busy = s.busy := rfl
@[simp] theorem State.setDirect_srcLen (s : State) (v : List Instr) : (s.setDirect v).srcLen = s.srcLen := rfl
@[simp] theorem State.setDirect_dstLen (s : State) (v : List Instr) : (s.setDirect v).dstLen = s.dstLen := rfl

/-! ### `State.setFresh` -/

@[simp] theorem State.setFresh_phase (s : State) (v : Nat) : (s.setFresh v).phase = s.phase := rfl
@[simp] theorem State.setFresh_sp (s : State) (v : Nat) : (s.setFresh v).sp = s.sp := rfl
@[simp] theorem State.setFresh_off (s : State) (v : Nat) : (s.setFresh v).off = s.off := rfl
@[simp] theorem State.setFresh_sh (s : State) (v : Nat) : (s.setFresh v).sh = s.sh := rfl
@[simp] theorem State.setFresh_bh (s : State) (v : Nat) : (s.setFresh v).bh = s.bh := rfl
@[simp] theorem State.setFresh_a (s : State) (v : Nat) : (s.setFresh v).a = s.a := rfl
@[simp] theorem State.setFresh_b (s : State) (v : Nat) : (s.setFresh v).b = s.b := rfl
@[simp] theorem State.setFresh_ct (s : State) (v : Nat) : (s.setFresh v).ct = s.ct := rfl
@[simp] theorem State.setFresh_lt (s : State) (v : Nat) : (s.setFresh v).lt = s.lt := rfl
@[simp] theorem State.setFresh_tmp (s : State) (v : Nat) : (s.setFresh v).tmp = s.tmp := rfl
@[simp] theorem State.setFresh_regs (s : State) (v : Nat) : (s.setFresh v).regs = s.regs := rfl
@[simp] theorem State.setFresh_src (s : State) (v : Nat) : (s.setFresh v).src = s.src := rfl
@[simp] theorem State.setFresh_dst (s : State) (v : Nat) : (s.setFresh v).dst = s.dst := rfl
@[simp] theorem State.setFresh_dst0 (s : State) (v : Nat) : (s.setFresh v).dst0 = s.dst0 := rfl
@[simp] theorem State.setFresh_ctl (s : State) (v : Nat) : (s.setFresh v).ctl = s.ctl := rfl
@[simp] theorem State.setFresh_loc (s : State) (v : Nat) : (s.setFresh v).loc = s.loc := rfl
@[simp] theorem State.setFresh_res (s : State) (v : Nat) : (s.setFresh v).res = s.res := rfl
@[simp] theorem State.setFresh_resOk (s : State) (v : Nat) : (s.setFresh v).resOk = s.resOk := rfl
@[simp] theorem State.setFresh_host (s : State) (v : Nat) : (s.setFresh v).host = s.host := rfl
@[simp] theorem State.setFresh_hostData (s : State) (v : Nat) : (s.setFresh v).hostData = s.hostData := rfl
@[simp] theorem State.setFresh_direct (s : State) (v : Nat) : (s.setFresh v).direct = s.direct := rfl
@[simp] theorem State.setFresh_fresh (s : State) (v : Nat) : (s.setFresh v).fresh = v := rfl
@[simp] theorem State.setFresh_busy (s : State) (v : Nat) : (s.setFresh v).busy = s.busy := rfl
@[simp] theorem State.setFresh_srcLen (s : State) (v : Nat) : (s.setFresh v).srcLen = s.srcLen := rfl
@[simp] theorem State.setFresh_dstLen (s : State) (v : Nat) : (s.setFresh v).dstLen = s.dstLen := rfl

/-! ### Cursor registers -/

@[simp] theorem State.setCursor_phase (s : State) (c : CSel) (v : Cursor) : (s.setCursor c v).phase = s.phase := by cases c <;> rfl
@[simp] theorem State.setCursor_sp (s : State) (c : CSel) (v : Cursor) : (s.setCursor c v).sp = s.sp := by cases c <;> rfl
@[simp] theorem State.setCursor_off (s : State) (c : CSel) (v : Cursor) : (s.setCursor c v).off = s.off := by cases c <;> rfl
@[simp] theorem State.setCursor_sh (s : State) (c : CSel) (v : Cursor) : (s.setCursor c v).sh = s.sh := by cases c <;> rfl
@[simp] theorem State.setCursor_bh (s : State) (c : CSel) (v : Cursor) : (s.setCursor c v).bh = s.bh := by cases c <;> rfl
@[simp] theorem State.setCursor_ct (s : State) (c : CSel) (v : Cursor) : (s.setCursor c v).ct = s.ct := by cases c <;> rfl
@[simp] theorem State.setCursor_lt (s : State) (c : CSel) (v : Cursor) : (s.setCursor c v).lt = s.lt := by cases c <;> rfl
@[simp] theorem State.setCursor_tmp (s : State) (c : CSel) (v : Cursor) : (s.setCursor c v).tmp = s.tmp := by cases c <;> rfl
@[simp] theorem State.setCursor_regs (s : State) (c : CSel) (v : Cursor) : (s.setCursor c v).regs = s.regs := by cases c <;> rfl
@[simp] theorem State.setCursor_src (s : State) (c : CSel) (v : Cursor) : (s.setCursor c v).src = s.src := by cases c <;> rfl
@[simp] theorem State.setCursor_dst (s : State) (c : CSel) (v : Cursor) : (s.setCursor c v).dst = s.dst := by cases c <;> rfl
@[simp] theorem State.setCursor_dst0 (s : State) (c : CSel) (v : Cursor) : (s.setCursor c v).dst0 = s.dst0 := by cases c <;> rfl
@[simp] theorem State.setCursor_ctl (s : State) (c : CSel) (v : Cursor) : (s.setCursor c v).ctl = s.ctl := by cases c <;> rfl
@[simp] theorem State.setCursor_loc (s : State) (c : CSel) (v : Cursor) : (s.setCursor c v).loc = s.loc := by cases c <;> rfl
@[simp] theorem State.setCursor_res (s : State) (c : CSel) (v : Cursor) : (s.setCursor c v).res = s.res := by cases c <;> rfl
@[simp] theorem State.setCursor_resOk (s : State) (c : CSel) (v : Cursor) : (s.setCursor c v).resOk = s.resOk := by cases c <;> rfl
@[simp] theorem State.setCursor_host (s : State) (c : CSel) (v : Cursor) : (s.setCursor c v).host = s.host := by cases c <;> rfl
@[simp] theorem State.setCursor_hostData (s : State) (c : CSel) (v : Cursor) : (s.setCursor c v).hostData = s.hostData := by cases c <;> rfl
@[simp] theorem State.setCursor_direct (s : State) (c : CSel) (v : Cursor) : (s.setCursor c v).direct = s.direct := by cases c <;> rfl
@[simp] theorem State.setCursor_fresh (s : State) (c : CSel) (v : Cursor) : (s.setCursor c v).fresh = s.fresh := by cases c <;> rfl
@[simp] theorem State.setCursor_busy (s : State) (c : CSel) (v : Cursor) : (s.setCursor c v).busy = s.busy := by cases c <;> rfl
@[simp] theorem State.setCursor_srcLen (s : State) (c : CSel) (v : Cursor) : (s.setCursor c v).srcLen = s.srcLen := by cases c <;> rfl
@[simp] theorem State.setCursor_dstLen (s : State) (c : CSel) (v : Cursor) : (s.setCursor c v).dstLen = s.dstLen := by cases c <;> rfl

@[simp] theorem State.cursor_a (s : State) : s.cursor .a = s.a := rfl
@[simp] theorem State.cursor_b (s : State) : s.cursor .b = s.b := rfl
@[simp] theorem State.setCursor_a (s : State) (v : Cursor) : s.setCursor .a v = s.setA v := rfl
@[simp] theorem State.setCursor_b (s : State) (v : Cursor) : s.setCursor .b v = s.setB v := rfl

@[simp] theorem State.setCursor_cursor (s : State) (c : CSel) (v : Cursor) : (s.setCursor c v).cursor c = v := by
  cases c <;> rfl

@[simp] theorem State.setCursor_self (s : State) (c : CSel) : s.setCursor c (s.cursor c) = s := by
  cases c <;> rfl

@[simp] theorem State.setCursor_setCursor (s : State) (c : CSel) (v w : Cursor) :
    (s.setCursor c v).setCursor c w = s.setCursor c w := by
  cases c <;> rfl

@[simp] theorem State.setPhase_cursor (s : State) (c : CSel) (v : Phase) : (s.setPhase v).cursor c = s.cursor c := by cases c <;> rfl
@[simp] theorem State.setPos_cursor (s : State) (c : CSel) (x y : Nat) : (s.setPos x y).cursor c = s.cursor c := by cases c <;> rfl
@[simp] theorem State.setSh_cursor (s : State) (c : CSel) (v : StreamHeader) : (s.setSh v).cursor c = s.cursor c := by cases c <;> rfl
@[simp] theorem State.setBh_cursor (s : State) (c : CSel) (v : BlockHeader) : (s.setBh v).cursor c = s.cursor c := by cases c <;> rfl
@[simp] theorem State.setCt_cursor (s : State) (c : CSel) (v : CodeTable) : (s.setCt v).cursor c = s.cursor c := by cases c <;> rfl
@[simp] theorem State.setLt_cursor (s : State) (c : CSel) (v : LzTable) : (s.setLt v).cursor c = s.cursor c := by cases c <;> rfl
@[simp] theorem State.setTmp_cursor (s : State) (c : CSel) (v : Temps) : (s.setTmp v).cursor c = s.cursor c := by cases c <;> rfl
@[simp] theorem State.setRegs_cursor (s : State) (c : CSel) (v : HostRegs) : (s.setRegs v).cursor c = s.cursor c := by cases c <;> rfl
@[simp] theorem State.setSrc_cursor (s : State) (c : CSel) (v : Memory) : (s.setSrc v).cursor c = s.cursor c := by cases c <;> rfl
@[simp] theorem State.setDst_cursor (s : State) (c : CSel) (v : Memory) : (s.setDst v).cursor c = s.cursor c := by cases c <;> rfl
@[simp] theorem State.setDst0_cursor (s : State) (c : CSel) (v : Memory) : (s.setDst0 v).cursor c = s.cursor c := by cases c <;> rfl
@[simp] theorem State.setCtl_cursor (s : State) (c : CSel) (v : Ctl) : (s.setCtl v).cursor c = s.cursor c := by cases c <;> rfl
@[simp] theorem State.setLoc_cursor (s : State) (c : CSel) (v : Locals) : (s.setLoc v).cursor c = s.cursor c := by cases c <;> rfl
@[simp] theorem State.setRes_cursor (s : State) (c : CSel) (x : Bool) (v : Int) : (s.setRes x v).cursor c = s.cursor c := by cases c <;> rfl
@[simp] theorem State.setHost_cursor (s : State) (c : CSel) (v : List HostEvent) : (s.setHost v).cursor c = s.cursor c := by cases c <;> rfl
@[simp] theorem State.setHostData_cursor (s : State) (c : CSel) (v : Word) : (s.setHostData v).cursor c = s.cursor c := by cases c <;> rfl
@[simp] theorem State.setDirect_cursor (s : State) (c : CSel) (v : List Instr) : (s.setDirect v).cursor c = s.cursor c := by cases c <;> rfl
@[simp] theorem State.setFresh_cursor (s : State) (c : CSel) (v : Nat) : (s.setFresh v).cursor c = s.cursor c := by cases c <;> rfl

/-! ### The source as the cursors see it -/

@[simp] theorem State.setPhase_source (s : State) (v : Phase) : (s.setPhase v).source = s.source := rfl
@[simp] theorem State.setPos_source (s : State) (x y : Nat) : (s.setPos x y).source = s.source := rfl
@[simp] theorem State.setSh_source (s : State) (v : StreamHeader) : (s.setSh v).source = s.source := rfl
@[simp] theorem State.setBh_source (s : State) (v : BlockHeader) : (s.setBh v).source = s.source := rfl
@[simp] theorem State.setA_source (s : State) (v : Cursor) : (s.setA v).source = s.source := rfl
@[simp] theorem State.setB_source (s : State) (v : Cursor) : (s.setB v).source = s.source := rfl
@[simp] theorem State.setCt_source (s : State) (v : CodeTable) : (s.setCt v).source = s.source := rfl
@[simp] theorem State.setLt_source (s : State) (v : LzTable) : (s.setLt v).source = s.source := rfl
@[simp] theorem State.setTmp_source (s : State) (v : Temps) : (s.setTmp v).source = s.source := rfl
@[simp] theorem State.setDst_source (s : State) (v : Memory) : (s.setDst v).source = s.source := rfl
@[simp] theorem State.setDst0_source (s : State) (v : Memory) : (s.setDst0 v).source = s.source := rfl
@[simp] theorem State.setCtl_source (s : State) (v : Ctl) : (s.setCtl v).source = s.source := rfl
@[simp] theorem State.setLoc_source (s : State) (v : Locals) : (s.setLoc v).source = s.source := rfl
@[simp] theorem State.setRes_source (s : State) (x : Bool) (v : Int) : (s.setRes x v).source = s.source := rfl
@[simp] theorem State.setHost_source (s : State) (v : List HostEvent) : (s.setHost v).source = s.source := rfl
@[simp] theorem State.setHostData_source (s : State) (v : Word) : (s.setHostData v).source = s.source := rfl
@[simp] theorem State.setDirect_source (s : State) (v : List Instr) : (s.setDirect v).source = s.source := rfl
@[simp] theorem State.setFresh_source (s : State) (v : Nat) : (s.setFresh v).source = s.source := rfl
@[simp] theorem State.setSrc_source (s : State) (v : Memory) : (s.setSrc v).source = { bytes := v, len := s.srcLen } := rfl
@[simp] theorem State.setRegs_source (s : State) (v : HostRegs) :
    (s.setRegs v).source = { bytes := s.src, len := v.srcLen.toNat } := rfl
@[simp] theorem State.setCursor_source (s : State) (c : CSel) (v : Cursor) : (s.setCursor c v).source = s.source := by
  cases c <;> rfl
@[simp] theorem State.source_bytes (s : State) : s.source.bytes = s.src := rfl
@[simp] theorem State.source_len (s : State) : s.source.len = s.srcLen := rfl

end Sys2Proof.Machine
end

