-- ==== Sys2Proof/Laws/Eng.lean ====
section
/-! SUPPORT. What each shared operation can do, said once: the engine's computations run, the fault action, the accesses to the
two spaces and the cursor registers, and the delivery of a chunk's bytes. -/

namespace Sys2Proof.Machine

/-! ### Running a computation -/

@[simp] theorem Eng.pure_run {α : Type} (x : α) (s : State) : (pure x : Eng α) s = .ok x s := rfl

@[simp] theorem Eng.bind_run {α β : Type} (m : Eng α) (f : α → Eng β) (s : State) :
    (m >>= f) s = match m s with
      | .ok x t => f x t
      | .error e t => .error e t := by
  show EStateM.bind m f s = _
  unfold EStateM.bind
  cases m s <;> rfl

theorem Eng.bind_ok {α β : Type} {m : Eng α} {f : α → Eng β} {s t : State} {x : α} (h : m s = .ok x t) :
    (m >>= f) s = f x t := by
  simp [h]

theorem Eng.bind_error {α β : Type} {m : Eng α} {f : α → Eng β} {s t : State} {e : Stop} (h : m s = .error e t) :
    (m >>= f) s = .error e t := by
  simp [h]

@[simp] theorem raise_run {α : Type} (c : Cause) (s : State) : (raise c : Eng α) s = .error (.raise c) s := rfl
@[simp] theorem refuse_run {α : Type} (r : Refusal) (s : State) : (refuse r : Eng α) s = .error (.refuse r) s := rfl
@[simp] theorem stopFault_run {α : Type} (f : Fault) (s : State) : (stopFault f : Eng α) s = .error (.fault f) s := rfl
@[simp] theorem getState_run (s : State) : getState s = .ok s s := rfl
@[simp] theorem update_run (f : State → State) (s : State) : update f s = .ok () (f s) := rfl
@[simp] theorem updateLoc_run (f : Locals → Locals) (s : State) : updateLoc f s = .ok () (s.setLoc (f s.loc)) := rfl
@[simp] theorem goto_run (c : Ctl) (s : State) : goto c s = .ok () (s.setCtl c) := rfl
@[simp] theorem setResult_run (ok : Bool) (v : Int) (s : State) : setResult ok v s = .ok () (s.setRes ok v) := rfl

theorem require_run (p : Bool) (c : Cause) (s : State) :
    require p c s = if p then .ok () s else .error (.raise c) s := rfl

@[simp] theorem require_true (c : Cause) (s : State) : require true c s = .ok () s := rfl
@[simp] theorem require_false (c : Cause) (s : State) : require false c s = .error (.raise c) s := rfl

/-- The four outcomes of a computation. -/
theorem settle_ok {m : Eng Unit} {s t : State} (h : m s = .ok () t) : settle m s = .next t := by
  simp [settle, h]

theorem settle_raise {m : Eng Unit} {s t : State} {c : Cause} (h : m s = .error (.raise c) t) :
    settle m s = .next (takeFault c t) := by
  simp [settle, h]

theorem settle_fault {m : Eng Unit} {s t : State} {f : Fault} (h : m s = .error (.fault f) t) :
    settle m s = .fault f := by
  simp [settle, h]

theorem settle_refuse {m : Eng Unit} {s t : State} {r : Refusal} (h : m s = .error (.refuse r) t) :
    settle m s = .refused r := by
  simp [settle, h]

/-- Where a settled computation answers a next state, it ended there or raised a fault. -/
theorem settle_next {m : Eng Unit} {s t : State} (h : settle m s = .next t) :
    m s = .ok () t ∨ ∃ c u, m s = .error (.raise c) u ∧ t = takeFault c u := by
  unfold settle at h
  split at h
  · next u hm => cases h; exact .inl hm
  · next c u hm => cases h; exact .inr ⟨c, u, hm, rfl⟩
  · cases h
  · cases h

/-! ### The fault action -/

/-- R33: STATUS after a fault, as a number. -/
theorem statusFault_eq (c : Cause) : statusFault c = faultStatus c.cls.number c.number := by
  cases c <;> decide

theorem earlyStop_iff (c : Cause) : c.cls = .earlyStop ↔ c = .e52 := by
  cases c <;> decide

/-- R343, R371: what the free choice of destination bytes leaves. -/
theorem State.freeDst_spec (keep : Nat → Bool) (s : State) :
    s.freeDst keep = { s with dst := (s.freeDst keep).dst } ∧
    (s.busy = false → s.freeDst keep = s) ∧
    ∀ a, Memory.read (s.freeDst keep).dst a = Memory.read s.dst a ∨
      (s.busy = true ∧ Memory.read (s.freeDst keep).dst a = Memory.read s.dst0 a) := by
  unfold State.freeDst
  cases hb : s.busy with
  | false => simp
  | true =>
    refine ⟨rfl, by simp, fun a => ?_⟩
    simp only [if_true, State.setDst_dst, Memory.read_mergeFree, true_and]
    split
    · cases h : Memory.read s.dst a with
      | none => right; simp
      | some v => left; simp
    · right; rfl

theorem State.freeDst_memories {keep : Nat → Bool} {s : State} (h : s.memoriesCanonical) :
    (s.freeDst keep).memoriesCanonical := by
  unfold State.freeDst
  split
  · exact ⟨h.1, Memory.wf_mergeFree _ _ h.2.2.1, h.2.2⟩
  · exact h

/-- R341: what the fault action leaves; E47 (R300) is the one cause that comes before any block step. -/
theorem takeFault_spec (c : Cause) (s : State) (hc : c ≠ .e47) :
    FaultTaken c.cls.number c.number s (takeFault c s) := by
  obtain ⟨h1, -, h3⟩ := State.freeDst_spec (Config.keepAfterFault s.jobInputs) s
  have hr : (s.freeDst (Config.keepAfterFault s.jobInputs)).regs = s.regs := by rw [h1]
  have hsp : (s.freeDst (Config.keepAfterFault s.jobInputs)).sp = s.sp := by rw [h1]
  have hoff : (s.freeDst (Config.keepAfterFault s.jobInputs)).off = s.off := by rw [h1]
  have hk : (c.cls.number = 5) ↔ c.cls = .earlyStop := by cases h : c.cls <;> simp [ErrClass.number]
  refine ⟨?_, ?_, rfl, h3, ?_⟩
  · simp [takeFault, hr, hsp, hoff, hc, statusFault_eq]
  · simp [takeFault, hk]
  · show takeFault c s = _
    unfold takeFault
    rw [h1]
    rfl

/-! ### Source and destination -/

theorem srcBytes_ok {s : State} {i n : Nat} (h : n = 0 ∨ i + n ≤ s.srcLen) :
    srcBytes i n s = .ok (srcValues s.src i n) s := by
  simp [srcBytes, h]

theorem srcBytes_fault {s : State} {i n : Nat} (h : ¬ (n = 0 ∨ i + n ≤ s.srcLen)) :
    srcBytes i n s = .error (.fault .srcOutside) s := by
  simp only [srcBytes, if_neg h]

theorem dstWrite_ok {s : State} {i : Nat} {bs : List Byte} (h : bs = [] ∨ i + bs.length ≤ s.dstLen) :
    dstWrite i bs s = .ok () (s.setDst (Memory.writeList s.dst i bs)) := by
  simp [dstWrite, h]

theorem dstWrite_fault {s : State} {i : Nat} {bs : List Byte} (h : ¬ (bs = [] ∨ i + bs.length ≤ s.dstLen)) :
    dstWrite i bs s = .error (.fault .dstOutside) s := by
  simp only [dstWrite, if_neg h]

theorem dstRead_ok {s : State} {i : Nat} (h : i < s.dstLen) : dstRead i s = .ok (dstValue s.dst i) s := by
  simp [dstRead, h]

theorem dstRead_fault {s : State} {i : Nat} (h : ¬ i < s.dstLen) : dstRead i s = .error (.fault .dstOutside) s := by
  simp only [dstRead, if_neg h]

/-- R303, R312, R321, R263: `n` source bytes from `i` stand at destination offset `o`; all else is unchanged. -/
theorem copySrc_ok {s : State} {o i n : Nat} (h1 : n = 0 ∨ i + n ≤ s.srcLen) (h2 : n = 0 ∨ o + n ≤ s.dstLen) :
    copySrc o i n s = .ok () (s.setDst (Memory.writeList s.dst o (srcValues s.src i n))) := by
  have h3 : srcValues s.src i n = [] ∨ o + (srcValues s.src i n).length ≤ s.dstLen := by
    rcases h2 with h2 | h2
    · subst h2; exact .inl rfl
    · exact .inr (by simpa using h2)
  simp [copySrc, srcBytes_ok h1, dstWrite_ok h3]

/-! ### Cursor registers -/

theorem onCursor_ok {α : Type} {c : CSel} {f : Source → Cursor → Except (Cause × Cursor) (α × Cursor)} {s : State} {x : α}
    {v : Cursor} (h : f s.source (s.cursor c) = .ok (x, v)) : onCursor c f s = .ok x (s.setCursor c v) := by
  simp [onCursor, h]

theorem onCursor_raise {α : Type} {c : CSel} {f : Source → Cursor → Except (Cause × Cursor) (α × Cursor)} {s : State}
    {e : Cause} {v : Cursor} (h : f s.source (s.cursor c) = .error (e, v)) :
    onCursor c f s = .error (.raise e) (s.setCursor c v) := by
  simp [onCursor, h]

/-- R125 on a cursor register. -/
theorem readBitsOf_ok {c : CSel} {n : Nat} {s : State} (h1 : 1 ≤ n) (h2 : n ≤ 24)
    (h3 : (n : Int) ≤ (s.cursor c).room) :
    readBitsOf c n params s = .ok ((s.cursor c).window >>> (32 - n)) (s.setCursor c ((s.cursor c).drop n)) :=
  onCursor_ok (by simp [Cursor.readBits, h1, h2, h3])

theorem refillCursor_ok {c : CSel} {dir : Dir} {s : State} (h : (s.cursor c).fill ≤ 24) :
    refillCursor c dir params s = .ok () (s.setCursor c ((s.cursor c).fillLoop dir s.source 3)) :=
  onCursor_ok (by simp [Cursor.refillDir, h, Except.map])

theorem refillCursor_raise {c : CSel} {dir : Dir} {s : State} (h : 24 < (s.cursor c).fill) :
    refillCursor c dir params s = .error (.raise .e54) s := by
  have := onCursor_raise (c := c) (f := fun src v => (v.refillDir dir src).map fun v => ((), v)) (s := s) (e := .e54)
    (v := s.cursor c) (by simp [Cursor.refillDir, show ¬ (s.cursor c).fill ≤ 24 by omega, Except.map])
  simpa [refillCursor] using this

/-- The check that a bit-level element stands at its cursor. -/
theorem atCursor_ok {c : CSel} {i : Instr} {bits : Bits} {s : State} (hi : encode i = some bits)
    (h : (s.cursor c).reads s.source bits) : atCursor c i params s = .ok () s := by
  simp only [atCursor, params_grammar, hi, List.isPrefixOf_iff_prefix.2 h, if_true]

theorem atCursor_refuse {c : CSel} {i : Instr} {bits : Bits} {s : State} (hi : encode i = some bits)
    (h : ¬ (s.cursor c).reads s.source bits) : atCursor c i params s = .error (.refuse .notAtCursor) s := by
  have : ¬ (bits.isPrefixOf ((s.cursor c).upcoming s.source bits.length) = true) :=
    fun hp => h (List.isPrefixOf_iff_prefix.1 hp)
  simp only [atCursor, params_grammar, hi, if_neg this]

/-! ### Chunks -/

@[simp] theorem startChunk_run (p e cap : Nat) (dest : ChunkDest) (s : State) :
    startChunk p e cap dest s =
      .ok () ((s.setLoc { s.loc with cp := p, cend := e, cap := cap, dest := dest }).setCtl .chunk) := rfl

/-- R230, R319, R265 to R271: where the caller's checks pass, the chunk's bytes are delivered. -/
theorem deliver_spec {s : State} {out : List Byte} {n : Nat} (h : s.accepts out n) :
    ∃ t, deliver out n params s = .ok () t ∧ s.Delivered out n t := by
  unfold State.accepts at h
  unfold State.Delivered
  cases hd : s.loc.dest <;> simp only [hd] at h ⊢
  · obtain ⟨hlen, hfit⟩ := h
    have hw : out = [] ∨ s.loc.d + out.length ≤ s.dstLen := .inr (by omega)
    refine ⟨_, by simp [deliver, hd, hlen, dstWrite_ok hw]; rfl, rfl, ?_⟩
    have := Memory.stored_writeList s.dst s.loc.d out (fun j => out[j]?.getD 0) (fun j hj => by simp [hj])
    rw [hlen] at this
    exact this
  · exact ⟨_, by simp [deliver, hd]; rfl, rfl⟩
  · have h3 : s.loc.lp + n + 3 ≤ s.loc.q := h
    exact ⟨_, by simp [deliver, hd, h3]; rfl, rfl⟩
  · by_cases hs : 2 ≤ s.lt.scaling
    · exact ⟨_, by simp [deliver, hd, hs]; rfl, by simp [hs]; rfl⟩
    · exact ⟨_, by simp [deliver, hd, hs]; rfl, by simp [hs]; rfl⟩
  · exact ⟨_, by simp [deliver, hd, h]; rfl, rfl⟩
  · exact ⟨_, by simp [deliver, hd]; rfl, rfl⟩

/-- R319 (E18), R267 (E41), R270 (E43): where the caller's check fails, the fault it raises is the caller's. -/
theorem deliver_rejects {s : State} {out : List Byte} {n : Nat} (h : s.rejects out n) :
    ∃ t, settle (deliver out n) s = .next t ∧ s.CallerFault out n t := by
  unfold State.rejects at h
  unfold State.CallerFault
  cases hd : s.loc.dest <;> simp only [hd] at h ⊢
  · exact ⟨_, settle_raise (c := .e18) (by
      have hb : (out.length == s.loc.cnt) = false := by simpa using h
      simp [deliver, hd, hb]), takeFault_spec .e18 _ (by decide)⟩
  · have h3 : ¬ s.loc.lp + n + 3 ≤ s.loc.q := by omega
    exact ⟨_, settle_raise (c := .e41) (by simp [deliver, hd, h3]; rfl), takeFault_spec .e41 _ (by decide)⟩
  · exact ⟨_, settle_raise (c := .e43) (by
      have hb : (out.length == s.lt.offsPacked.length) = false := by simpa using h
      simp [deliver, hd, hb]; rfl), takeFault_spec .e43 _ (by decide)⟩

/-- R238: the payload checks pass. -/
theorem checkPayload_ok {s : State} {hdr srcSize dstSize : Nat} (h : s.payloadFits hdr srcSize dstSize) :
    checkPayload hdr srcSize dstSize s = .ok () s := by
  simp [checkPayload, h.1, h.2]

/-- R121, R122: a cursor over a range of the source. -/
@[simp] theorem initCursor_fwd_run (c : CSel) (lo hi : Nat) (s : State) :
    initCursor c .fwd lo hi params s = .ok () (s.setCursor c (Cursor.initFwd s.source lo hi)) := rfl

@[simp] theorem initCursor_bwd_run (c : CSel) (lo hi : Nat) (s : State) :
    initCursor c .bwd lo hi params s = .ok () (s.setCursor c (Cursor.initBwd s.source lo hi)) := rfl

end Sys2Proof.Machine
end

