-- ==== Sys2Proof/Laws/PerInstr.lean ====
section
/-! SUPPORT. A statement about every instruction, one lemma per constructor: how many bits its encoding has (R108, and the lengths of
spec file 30_encoding.md). -/

namespace Sys2Proof.Laws

open Sys2Proof

/-- The bits of a code `0^n 1 b` with a field of `w` bits. -/
def codeLength (n w : Nat) : Nat :=
  if n < 32 then n + 1 + w else 32

theorem zerosOneBits_length (n w b : Nat) : (zerosOneBits n w b).length = codeLength n w := by
  unfold zerosOneBits codeLength
  split
  · simp; omega
  · simp

theorem encodePairs_length (w : Nat) (pairs : List (Byte × BitVec 4)) :
    (encodePairs w pairs).length = pairs.length * (8 + w) := by
  induction pairs with
  | nil => simp [encodePairs]
  | cons p ps ih => obtain ⟨s, l⟩ := p; simp [encodePairs, ih, Nat.succ_mul]; omega

/-- The bits of an instruction's encoding; the truncated headers and the cursor operations have none. -/
def encodedLength : Instr → Option Nat
  | .ctrlStart _ _ => some 32
  | .ctrlSoftReset _ _ => some 32
  | .ctrlForgetStream _ => some 32
  | .streamHeaderLzna _ _ _ => some 16
  | .streamHeaderKraken _ _ _ => some 16
  | .streamHeaderMermaid _ _ _ => some 16
  | .streamHeaderBitknit _ _ _ => some 16
  | .streamHeaderLeviathan _ _ _ => some 16
  | .streamHeaderBadMagic _ _ _ => some 16
  | .streamHeaderBadReserved _ _ _ => some 16
  | .streamHeaderBadFamily _ _ _ _ => some 16
  | .streamHeaderTruncated => none
  | .krakenBhNormal _ _ _ _ => some 24
  | .krakenBhNormalCk _ _ _ _ _ => some 48
  | .krakenBhFill _ => some 32
  | .krakenBhBadSentinel _ => some 24
  | .krakenBhTruncated => none
  | .lznaBhNormal _ _ _ => some 16
  | .lznaBhNormalCk _ _ _ _ => some 40
  | .lznaBhWholeMatch => some 16
  | .lznaBhMemset _ => some 24
  | .lznaBhRaw => some 16
  | .lznaBhBad => some 16
  | .quantumLz _ _ => some 24
  | .quantumStored _ => some 24
  | .quantumEntropy _ => some 24
  | .chunkCopyShort _ => some 16
  | .chunkCopyLong _ => some 24
  | .chunkCopyLongBad _ _ => some 24
  | .chunkTansShort _ _ => some 24
  | .chunkTansLong _ _ => some 40
  | .chunkHuff2Short _ _ => some 24
  | .chunkHuff2Long _ _ => some 40
  | .chunkRleShort _ _ => some 24
  | .chunkRleLong _ _ => some 40
  | .chunkHuff4Short _ _ => some 24
  | .chunkHuff4Long _ _ => some 40
  | .chunkRecursiveShort _ _ => some 24
  | .chunkRecursiveLong _ _ => some 40
  | .chunkType6 _ _ => some 8
  | .chunkType7 _ _ => some 8
  | .entropySelGamma => some 2
  | .entropySelSparse => some 2
  | .entropySelGolombRice => some 2
  | .entropySelBad => some 2
  | .sparseZero => some 8
  | .sparseOne _ => some 16
  | .sparseMany _ w pairs => some (11 + pairs.length * (8 + w.toNat))
  | .gammaHeader _ _ => some 3
  | .gammaZeroRun n _ => some (codeLength n (n + 1))
  | .gammaRunCount n _ => some (codeLength n (n + 1))
  | .gammaResidual f q _ => some (codeLength q f.toNat)
  | .gammaCode _ n _ => some (codeLength n (n + 1))
  | .distanceSmall _ cb _ => some (distanceBits cb)
  | .distanceLarge _ cb _ _ => some (distanceBits cb + 12)
  | .lengthCode _ n _ => some (codeLength n (n + 6))
  | .sideCountCode n _ => some (codeLength n n)
  | .moreThan24 _ n _ => some (n)
  | .lzFlagOk _ => some 8
  | .lzFlagBad _ => some 8
  | .lzScalingPresent _ => some 8
  | .lzScalingAbsent _ => some 8
  | .lzOffsetTradSmall _ _ => some 8
  | .lzOffsetTradLarge _ => some 8
  | .lzOffsetScaled _ _ => some 8
  | .lzOffsetEarlyStop _ _ => some 8
  | .lzLengthByte _ => some 8
  | .lzLengthEscape => some 8
  | .cursorInitFwd _ _ _ => none
  | .cursorInitBwd _ _ _ => none
  | .refill _ => none
  | .refillBackwards _ => none
  | .readBits _ _ => none
  | .readBitsZero _ _ => none
  | .readBit _ => none
  | .readBitNorefill _ => none
  | .readGamma _ => none
  | .readDistance _ _ => none
  | .readDistanceB _ _ => none
  | .readLength _ => none
  | .readLengthB _ => none
  | .readMoreThan24Bits _ _ => none
  | .readMoreThan24BitsB _ _ => none
  | .consumedPos _ => none

end Sys2Proof.Laws

namespace Sys2Proof.Laws.EncodingLength

open Sys2Proof

/-- The encoding has the length its row gives. -/
def Statement (i : Instr) : Prop :=
  (encode i).map List.length = encodedLength i

theorem ctrlStart (x : BitVec 29) (f : Bool) : Statement (.ctrlStart x f) :=
  rfl
theorem ctrlSoftReset (x : BitVec 30) (x0 : Bool) : Statement (.ctrlSoftReset x x0) :=
  rfl
theorem ctrlForgetStream (x : BitVec 29) : Statement (.ctrlForgetStream x) :=
  rfl
theorem streamHeaderLzna (r u c : Bool) : Statement (.streamHeaderLzna r u c) :=
  rfl
theorem streamHeaderKraken (r u c : Bool) : Statement (.streamHeaderKraken r u c) :=
  rfl
theorem streamHeaderMermaid (r u c : Bool) : Statement (.streamHeaderMermaid r u c) :=
  rfl
theorem streamHeaderBitknit (r u c : Bool) : Statement (.streamHeaderBitknit r u c) :=
  rfl
theorem streamHeaderLeviathan (r u c : Bool) : Statement (.streamHeaderLeviathan r u c) :=
  rfl
theorem streamHeaderBadMagic (x m : BitVec 4) (y : Byte) : Statement (.streamHeaderBadMagic x m y) :=
  rfl
theorem streamHeaderBadReserved (x r : BitVec 2) (y : Byte) : Statement (.streamHeaderBadReserved x r y) :=
  rfl
theorem streamHeaderBadFamily (r u c : Bool) (f : BitVec 7) : Statement (.streamHeaderBadFamily r u c f) :=
  rfl
theorem streamHeaderTruncated : Statement .streamHeaderTruncated := rfl
theorem krakenBhNormal (x : BitVec 4) (flag2 flag1 : Bool) (s : BitVec 18) : Statement (.krakenBhNormal x flag2 flag1 s) :=
  rfl
theorem krakenBhNormalCk (x : BitVec 4) (flag2 flag1 : Bool) (s : BitVec 18) (c : BitVec 24) : Statement (.krakenBhNormalCk x flag2 flag1 s c) :=
  rfl
theorem krakenBhFill (k : Byte) : Statement (.krakenBhFill k) :=
  rfl
theorem krakenBhBadSentinel (e : BitVec 6) : Statement (.krakenBhBadSentinel e) :=
  rfl
theorem krakenBhTruncated : Statement .krakenBhTruncated := rfl
theorem lznaBhNormal (flag2 flag1 : Bool) (s : BitVec 14) : Statement (.lznaBhNormal flag2 flag1 s) :=
  rfl
theorem lznaBhNormalCk (flag2 flag1 : Bool) (s : BitVec 14) (c : BitVec 24) : Statement (.lznaBhNormalCk flag2 flag1 s c) :=
  rfl
theorem lznaBhWholeMatch : Statement (.lznaBhWholeMatch) :=
  rfl
theorem lznaBhMemset (k : Byte) : Statement (.lznaBhMemset k) :=
  rfl
theorem lznaBhRaw : Statement (.lznaBhRaw) :=
  rfl
theorem lznaBhBad : Statement (.lznaBhBad) :=
  rfl
theorem quantumLz (m : BitVec 4) (u : BitVec 19) : Statement (.quantumLz m u) :=
  rfl
theorem quantumStored (u : BitVec 19) : Statement (.quantumStored u) :=
  rfl
theorem quantumEntropy (x : BitVec 23) : Statement (.quantumEntropy x) :=
  rfl
theorem chunkCopyShort (s : BitVec 12) : Statement (.chunkCopyShort s) :=
  rfl
theorem chunkCopyLong (s : BitVec 18) : Statement (.chunkCopyLong s) :=
  rfl
theorem chunkCopyLongBad (r : BitVec 2) (s : BitVec 18) : Statement (.chunkCopyLongBad r s) :=
  rfl
theorem chunkTansShort (d s : BitVec 10) : Statement (.chunkTansShort d s) :=
  rfl
theorem chunkTansLong (d s : BitVec 18) : Statement (.chunkTansLong d s) :=
  rfl
theorem chunkHuff2Short (d s : BitVec 10) : Statement (.chunkHuff2Short d s) :=
  rfl
theorem chunkHuff2Long (d s : BitVec 18) : Statement (.chunkHuff2Long d s) :=
  rfl
theorem chunkRleShort (d s : BitVec 10) : Statement (.chunkRleShort d s) :=
  rfl
theorem chunkRleLong (d s : BitVec 18) : Statement (.chunkRleLong d s) :=
  rfl
theorem chunkHuff4Short (d s : BitVec 10) : Statement (.chunkHuff4Short d s) :=
  rfl
theorem chunkHuff4Long (d s : BitVec 18) : Statement (.chunkHuff4Long d s) :=
  rfl
theorem chunkRecursiveShort (d s : BitVec 10) : Statement (.chunkRecursiveShort d s) :=
  rfl
theorem chunkRecursiveLong (d s : BitVec 18) : Statement (.chunkRecursiveLong d s) :=
  rfl
theorem chunkType6 (l : Bool) (x : BitVec 4) : Statement (.chunkType6 l x) :=
  rfl
theorem chunkType7 (l : Bool) (x : BitVec 4) : Statement (.chunkType7 l x) :=
  rfl
theorem entropySelGamma : Statement (.entropySelGamma) :=
  rfl
theorem entropySelSparse : Statement (.entropySelSparse) :=
  rfl
theorem entropySelGolombRice : Statement (.entropySelGolombRice) :=
  rfl
theorem entropySelBad : Statement (.entropySelBad) :=
  rfl
theorem sparseZero : Statement (.sparseZero) :=
  rfl
theorem sparseOne (s : Byte) : Statement (.sparseOne s) :=
  rfl
theorem sparseMany (c : Byte) (w : BitVec 3) (pairs : List (Byte × BitVec 4)) : Statement (.sparseMany c w pairs) :=
  congrArg some ((List.length_append ..).trans (congrArg (11 + ·) (encodePairs_length _ _)))
theorem gammaHeader (f : BitVec 2) (k : Bool) : Statement (.gammaHeader f k) :=
  rfl
theorem gammaZeroRun (n b : Nat) : Statement (.gammaZeroRun n b) :=
  congrArg some (zerosOneBits_length _ _ _)
theorem gammaRunCount (n b : Nat) : Statement (.gammaRunCount n b) :=
  congrArg some (zerosOneBits_length _ _ _)
theorem gammaResidual (f : BitVec 2) (q b : Nat) : Statement (.gammaResidual f q b) :=
  congrArg some (zerosOneBits_length _ _ _)
theorem gammaCode (c : CSel) (n b : Nat) : Statement (.gammaCode c n b) :=
  congrArg some (zerosOneBits_length _ _ _)
theorem distanceSmall (c : CSel) (cb : Byte) (x : Nat) : Statement (.distanceSmall c cb x) :=
  congrArg some (bitsOfNat_length _ _)
theorem distanceLarge (c : CSel) (cb : Byte) (x : Nat) (y : BitVec 12) : Statement (.distanceLarge c cb x y) :=
  congrArg some ((List.length_append ..).trans (congrArg (· + 12) (bitsOfNat_length _ _)))
theorem lengthCode (c : CSel) (n b : Nat) : Statement (.lengthCode c n b) :=
  congrArg some (zerosOneBits_length _ _ _)
theorem sideCountCode (n b : Nat) : Statement (.sideCountCode n b) :=
  congrArg some (zerosOneBits_length _ _ _)
theorem moreThan24 (c : CSel) (n b : Nat) : Statement (.moreThan24 c n b) :=
  congrArg some (bitsOfNat_length _ _)
theorem lzFlagOk (x : BitVec 7) : Statement (.lzFlagOk x) :=
  rfl
theorem lzFlagBad (x : BitVec 7) : Statement (.lzFlagBad x) :=
  rfl
theorem lzScalingPresent (s : BitVec 7) : Statement (.lzScalingPresent s) :=
  rfl
theorem lzScalingAbsent (x : BitVec 7) : Statement (.lzScalingAbsent x) :=
  rfl
theorem lzOffsetTradSmall (h l : BitVec 4) : Statement (.lzOffsetTradSmall h l) :=
  rfl
theorem lzOffsetTradLarge (n : BitVec 4) : Statement (.lzOffsetTradLarge n) :=
  rfl
theorem lzOffsetScaled (k : BitVec 5) (l : BitVec 3) : Statement (.lzOffsetScaled k l) :=
  rfl
theorem lzOffsetEarlyStop (k : BitVec 5) (l : BitVec 3) : Statement (.lzOffsetEarlyStop k l) :=
  rfl
theorem lzLengthByte (v : Byte) : Statement (.lzLengthByte v) :=
  rfl
theorem lzLengthEscape : Statement (.lzLengthEscape) :=
  rfl
theorem cursorInitFwd (c : CSel) (lo hi : Nat) : Statement (.cursorInitFwd c lo hi) :=
  rfl
theorem cursorInitBwd (c : CSel) (lo hi : Nat) : Statement (.cursorInitBwd c lo hi) :=
  rfl
theorem refill (c : CSel) : Statement (.refill c) :=
  rfl
theorem refillBackwards (c : CSel) : Statement (.refillBackwards c) :=
  rfl
theorem readBits (c : CSel) (n : Nat) : Statement (.readBits c n) :=
  rfl
theorem readBitsZero (c : CSel) (n : Nat) : Statement (.readBitsZero c n) :=
  rfl
theorem readBit (c : CSel) : Statement (.readBit c) :=
  rfl
theorem readBitNorefill (c : CSel) : Statement (.readBitNorefill c) :=
  rfl
theorem readGamma (c : CSel) : Statement (.readGamma c) :=
  rfl
theorem readDistance (c : CSel) (cb : Byte) : Statement (.readDistance c cb) :=
  rfl
theorem readDistanceB (c : CSel) (cb : Byte) : Statement (.readDistanceB c cb) :=
  rfl
theorem readLength (c : CSel) : Statement (.readLength c) :=
  rfl
theorem readLengthB (c : CSel) : Statement (.readLengthB c) :=
  rfl
theorem readMoreThan24Bits (c : CSel) (n : Nat) : Statement (.readMoreThan24Bits c n) :=
  rfl
theorem readMoreThan24BitsB (c : CSel) (n : Nat) : Statement (.readMoreThan24BitsB c n) :=
  rfl
theorem consumedPos (c : CSel) : Statement (.consumedPos c) :=
  rfl

end Sys2Proof.Laws.EncodingLength
end

