-- ==== Sys2Proof/Machine/Parameters.lean ====
section
/-! DEFINITION. The machine with the passages from general knowledge as an argument (R10, file 93 Part 2): `execWith P` and
`stepWith P` are `exec` and `step` with the record `P` in place of the stated defaults, which `exec` and `step` have
(Laws/Seq.lean: `execWith_params`, `stepWith_params`; log entry 4). -/

namespace Sys2Proof.Machine

/-- What `exec` does where the passages of file 93 Part 2 are those of `P`. -/
def execWith (P : Config.Params) (i : Instr) (s : State) : Host.Outcome State Fault Refusal :=
  match i with
  | .ctrlStart _ f => execCtrlStart f s
  | .ctrlSoftReset _ _ => execCtrlSoftReset s
  | .ctrlForgetStream _ => execCtrlForgetStream s
  | .streamHeaderLzna r u c => execStreamHeaderLzna r u c s
  | .streamHeaderKraken r u c => execStreamHeaderKraken r u c s
  | .streamHeaderMermaid r u c => execStreamHeaderMermaid r u c s
  | .streamHeaderBitknit r u c => execStreamHeaderBitknit r u c s
  | .streamHeaderLeviathan r u c => execStreamHeaderLeviathan r u c s
  | .streamHeaderBadMagic _ _ _ => execStreamHeaderBadMagic s
  | .streamHeaderBadReserved _ _ _ => execStreamHeaderBadReserved s
  | .streamHeaderBadFamily _ _ _ _ => execStreamHeaderBadFamily s
  | .streamHeaderTruncated => execStreamHeaderTruncated s
  | .krakenBhNormal _ flag2 flag1 size => execKrakenBhNormal flag2 flag1 size s P
  | .krakenBhNormalCk _ flag2 flag1 size ck => execKrakenBhNormalCk flag2 flag1 size ck s P
  | .krakenBhFill k => execKrakenBhFill k s P
  | .krakenBhBadSentinel _ => execKrakenBhBadSentinel s
  | .krakenBhTruncated => execKrakenBhTruncated s P
  | .lznaBhNormal flag2 flag1 size => execLznaBhNormal flag2 flag1 size s P
  | .lznaBhNormalCk flag2 flag1 size ck => execLznaBhNormalCk flag2 flag1 size ck s P
  | .lznaBhWholeMatch => execLznaBhWholeMatch s
  | .lznaBhMemset k => execLznaBhMemset k s
  | .lznaBhRaw => execLznaBhRaw s
  | .lznaBhBad => execLznaBhBad s
  | .quantumLz m u => execQuantumLz m u s P
  | .quantumStored u => execQuantumStored u s P
  | .quantumEntropy _ => execQuantumEntropy s P
  | .chunkCopyShort size => execChunkCopyShort size s P
  | .chunkCopyLong size => execChunkCopyLong size s P
  | .chunkCopyLongBad _ _ => execChunkCopyLongBad s
  | .chunkTansShort d sz => execChunkTansShort d sz s P
  | .chunkTansLong d sz => execChunkTansLong d sz s P
  | .chunkHuff2Short d sz => execChunkHuff2Short d sz s P
  | .chunkHuff2Long d sz => execChunkHuff2Long d sz s P
  | .chunkRleShort d sz => execChunkRleShort d sz s P
  | .chunkRleLong d sz => execChunkRleLong d sz s P
  | .chunkHuff4Short d sz => execChunkHuff4Short d sz s P
  | .chunkHuff4Long d sz => execChunkHuff4Long d sz s P
  | .chunkRecursiveShort d sz => execChunkRecursiveShort d sz s P
  | .chunkRecursiveLong d sz => execChunkRecursiveLong d sz s P
  | .chunkType6 _ _ => execChunkType6 s
  | .chunkType7 _ _ => execChunkType7 s
  | .entropySelGamma => execEntropySelGamma s P
  | .entropySelSparse => execEntropySelSparse s P
  | .entropySelGolombRice => execEntropySelGolombRice s P
  | .entropySelBad => execEntropySelBad s P
  | .sparseZero => execSparseZero s P
  | .sparseOne sym => execSparseOne sym s P
  | .sparseMany c w pairs => execSparseMany c w pairs s P
  | .gammaHeader f k => execGammaHeader f k s P
  | .gammaZeroRun n b => execGammaZeroRun n b s P
  | .gammaRunCount n b => execGammaRunCount n b s P
  | .gammaResidual f q b => execGammaResidual f q b s P
  | .gammaCode c n b => execGammaCode c n b s P
  | .distanceSmall c cb x => execDistanceSmall c cb x s P
  | .distanceLarge c cb x y => execDistanceLarge c cb x y s P
  | .lengthCode c n b => execLengthCode c n b s P
  | .sideCountCode n b => execSideCountCode n b s P
  | .moreThan24 c n b => execMoreThan24 c n b s P
  | .lzFlagOk _ => execLzFlagOk s P
  | .lzFlagBad _ => execLzFlagBad s
  | .lzScalingPresent sel => execLzScalingPresent sel s P
  | .lzScalingAbsent _ => execLzScalingAbsent s P
  | .lzOffsetTradSmall h l => execLzOffsetTradSmall h l s P
  | .lzOffsetTradLarge n => execLzOffsetTradLarge n s P
  | .lzOffsetScaled k l => execLzOffsetScaled k l s P
  | .lzOffsetEarlyStop k l => execLzOffsetEarlyStop k l s P
  | .lzLengthByte v => execLzLengthByte v s
  | .lzLengthEscape => execLzLengthEscape s P
  | .cursorInitFwd c lo hi => execCursorInitFwd c lo hi s P
  | .cursorInitBwd c lo hi => execCursorInitBwd c lo hi s P
  | .refill c => execRefill c s P
  | .refillBackwards c => execRefillBackwards c s P
  | .readBits c n => execReadBits c n s P
  | .readBitsZero c n => execReadBitsZero c n s P
  | .readBit c => execReadBit c s P
  | .readBitNorefill c => execReadBitNorefill c s P
  | .readGamma c => execReadGamma c s P
  | .readDistance c cb => execReadDistance c cb s P
  | .readDistanceB c cb => execReadDistanceB c cb s P
  | .readLength c => execReadLength c s P
  | .readLengthB c => execReadLengthB c s P
  | .readMoreThan24Bits c n => execReadMoreThan24Bits c n s P
  | .readMoreThan24BitsB c n => execReadMoreThan24BitsB c n s P
  | .consumedPos c => execConsumedPos c s P

/-- What `step` does where the passages of file 93 Part 2 are those of `P`. -/
def stepWith (P : Config.Params) (s : State) : Host.Outcome State Fault Refusal :=
  machineStep s P (execWith P)

end Sys2Proof.Machine
end

