-- ==== Sys2Proof/Laws/Seq.lean ====
section
/-! SUPPORT. What the shared loops of the code-length readers and of the sequencer can do, each said once: the insertions, the bits a
supplied reader reads, the correction of the offsets, the bytes of an LZ run; and that the machine given the stated parameters is `exec` and `step`. -/

namespace Sys2Proof.Machine

/-! ### The stated parameters (R10) -/

/-- At the stated defaults the meanings are those of `exec`. -/
theorem execWith_params : execWith params = exec := by
  funext i s
  cases i <;> rfl

/-- At the stated defaults the step is `step`. -/
theorem stepWith_params : stepWith params = step := by
  funext s
  rw [stepWith, execWith_params, step]

/-! ### Insertions (R193, R202, R205) -/

/-- R193: an insertion below the table's end. -/
theorem insertSymbol_ok {sym : Byte} {len : Nat} {s : State} (h : (s.ct.codePrefix[len]?.getD 0).toNat < 1280) :
    insertSymbol sym len s = .ok () (s.setCt (s.ct.insert sym len)) := by
  have h' : (s.ct.codePrefix[len]?.getD 0).toNat < symsSize := h
  simp only [insertSymbol, Eng.bind_run, getState_run, if_pos h']
  rfl

/-- How far the insertions made so far can have moved a prefix: each moves one of them by 1. -/
def CodeTable.Within (t : CodeTable) (n : Nat) : Prop :=
  ∀ len, 1 ≤ len → len ≤ 11 → (t.codePrefix[len]?.getD 0).toNat ≤ 1022 + n

theorem CodeTable.within_first {t : CodeTable} (h : t.codePrefix = firstSlots) : t.Within 0 := by
  have all : ∀ len : Fin 12, (firstSlots[len.val]?.getD 0).toNat ≤ 1022 := by decide
  intro len _ h2
  rw [h]
  exact all ⟨len, by omega⟩

theorem CodeTable.Within.insert {t : CodeTable} {n : Nat} (h : t.Within n) (sym : Byte) (l : Nat) :
    (t.insert sym l).Within (n + 1) := by
  intro len h1 h2
  have hl := h len h1 h2
  simp only [CodeTable.insert]
  by_cases he : l = len
  · subst he
    have : l < 12 := by omega
    simp only [Vector.getElem?_setIfInBounds_self, this, if_true, Option.getD_some]
    rw [BitVec.toNat_add]
    exact Nat.le_trans (Nat.mod_le _ _) (Nat.add_le_add_right hl 1)
  · rw [Vector.getElem?_setIfInBounds_ne he]
    omega

/-- R205: a supplied reader's insertions into a table that is not full. -/
theorem insertAll_ok : ∀ (xs : List (Byte × Nat)) (s : State) (n : Nat), s.ct.Within n → n + xs.length ≤ 256 →
    (∀ x ∈ xs, 1 ≤ x.2 ∧ x.2 ≤ 11) → insertAll xs s = .ok () (s.setCt (s.ct.insertAll xs))
  | [], s, _, _, _, _ => rfl
  | (sym, len) :: xs, s, n, hw, hn, hx => by
    have h1 : 1 ≤ len ∧ len ≤ 11 := hx (sym, len) (by simp)
    have h2 := hw len h1.1 h1.2
    simp only [List.length_cons] at hn
    have hi := insertSymbol_ok (sym := sym) (s := s) (len := len) (by omega)
    have ih := insertAll_ok xs (s.setCt (s.ct.insert sym len)) (n + 1) (hw.insert sym len) (by omega)
      (fun x m => hx x (List.mem_cons_of_mem _ m))
    simp only [insertAll, h1, and_self, if_true, Eng.bind_run, hi, ih, CodeTable.insertAll]
    rfl

/-! ### The bits of a supplied reader (R205) -/

/-- R205: the bits a supplied reader reads, forward. -/
theorem skipBits_ok : ∀ (n : Nat) (s : State), s.a.sound → s.a.dir = .fwd →
    ∃ v, s.a.Advanced s.source n v ∧ s.a.pos ≤ v.pos ∧ skipBits n params s = .ok () (s.setA v)
  | 0, s, hs, _ => ⟨s.a.drop 0, Cursor.advanced_drop hs (Nat.zero_le _), Int.le_refl _, by simp [skipBits, Cursor.drop]; rfl⟩
  | n + 1, s, hs, hd => by
    have hr := Cursor.refillDir_spec (src := s.source) hs
    rw [hd] at hr
    obtain ⟨h1, ⟨h2, h3⟩⟩ := hr
    have hp := (Cursor.fillLoop_spec (src := s.source) 3 hs (by have := hs.2.1; omega)).2.2.1
    rw [hd] at hp
    generalize s.a.fillLoop .fwd s.source 3 = w at h1 h2 h3 hp
    have hv : 1 ≤ w.validBits := by rw [Cursor.sound_validBits h2.1]; omega
    have hb : s.a.readBit s.source = .ok (w.window >>> 31, w.drop 1) := by
      have : (1 : Int) ≤ w.room := by unfold Cursor.validBits at hv; omega
      simp [Cursor.readBit_eq, h1, Cursor.readBits, this, bind, Except.bind]
    have ha : s.a.Advanced s.source 1 (w.drop 1) := by
      have := Cursor.Advanced.trans h2 (Cursor.advanced_drop h2.1 hv) (by simp)
      simpa using this
    obtain ⟨v, hv1, hv2, hv3⟩ := skipBits_ok n (s.setA (w.drop 1)) ha.1 (by simpa using ha.2.2.2.1.trans hd)
    have hp' := hp rfl
    simp only [State.setA_a, State.setA_source, Cursor.drop_pos] at hv1 hv2
    refine ⟨v, ?_, by omega, ?_⟩
    · rw [Nat.add_comm]
      exact Cursor.Advanced.trans ha hv1 (by simp only [Cursor.drop_pos]; omega)
    · simp only [skipBits, Eng.bind_run, onCursor_ok (c := .a) (f := fun src c => c.readBit src) (s := s) hb]
      exact hv3


/-! ### Complete prefix codes (R215) -/

/-- R215: the check of a supplied decoder's table is the property it stands for. -/
theorem CodeTable.isComplete_iff (t : CodeTable) : t.isComplete = true ↔ t.Complete := by
  simp only [CodeTable.isComplete, Bool.and_eq_true, beq_iff_eq, decide_eq_true_eq]
  rfl

/-! ### The corrected offsets (R277, R278) -/

/-- R277: every corrected offset is an `i32`. -/
theorem correctOffsets_ok (scaling : Nat) : ∀ (os : List Word) (xs : List Byte), os.length = xs.length →
    let exact : List Int := List.zipWith (fun o x => (scaling : Int) * o.toInt - (x.toNat : Int)) os xs
    (∀ v ∈ exact, -2147483648 ≤ v ∧ v ≤ 2147483647) →
    correctOffsets scaling os xs = (exact.map (BitVec.ofInt 32), none)
  | [], _, _ => fun _ => by simp [correctOffsets]
  | _ :: _, [], h => by simp at h
  | o :: os, x :: xs, h => by
    intro exact hv
    have h1 : -2147483648 ≤ (scaling : Int) * o.toInt - x.toNat ∧ (scaling : Int) * o.toInt - x.toNat ≤ 2147483647 :=
      hv _ (by simp [exact])
    have ih := correctOffsets_ok scaling os xs (by simpa using h) (fun v m => hv v (by simp [exact, m]))
    simp [correctOffsets, exact, h1, ih]

/-- R278, R341: E51 at index `k`, the offsets below it corrected. -/
theorem correctOffsets_stop (scaling : Nat) : ∀ (os : List Word) (xs : List Byte) (k : Nat) (v : Int),
    os.length = xs.length →
    let exact : List Int := List.zipWith (fun o x => (scaling : Int) * o.toInt - (x.toNat : Int)) os xs
    exact[k]? = some v → ¬(-2147483648 ≤ v ∧ v ≤ 2147483647) →
    (∀ u ∈ exact.take k, -2147483648 ≤ u ∧ u ≤ 2147483647) →
    correctOffsets scaling os xs = ((exact.take k).map (BitVec.ofInt 32) ++ os.drop k, some .e51)
  | [], _, _, _, _ => fun h => by simp at h
  | _ :: _, [], _, _, h => by simp at h
  | o :: os, x :: xs, 0, v, _ => by
    intro exact h1 h2 _
    simp only [exact, List.zipWith_cons_cons, List.getElem?_cons_zero, Option.some.injEq] at h1
    subst h1
    simp only [correctOffsets, if_neg h2]
    rfl
  | o :: os, x :: xs, k + 1, v, h => by
    intro exact h1 h2 h3
    simp only [exact, List.zipWith_cons_cons, List.getElem?_cons_succ, List.take_succ_cons, List.mem_cons,
      forall_eq_or_imp] at h1 h3
    have ih := correctOffsets_stop scaling os xs k v (by simpa using h) h1 h2 h3.2
    simp [correctOffsets, exact, h3.1, ih]

/-! ### The bytes of an LZ run (R311) -/

/-- The literals of a list of writes, counted from the front. -/
theorem countP_writesLiteral_cons (w : Config.LzByte) (ws : List Config.LzByte) :
    (w :: ws).countP writesLiteral = match w with
      | .literal => ws.countP writesLiteral + 1
      | .copy _ => ws.countP writesLiteral := by
  cases w <;> rw [List.countP_cons] <;> simp only [writesLiteral] <;> rfl

/-- R311: the writes of a run that keeps the contract, from offset `o` on. -/
theorem lzWrites_ok : ∀ (ws : List Config.LzByte) (o : Nat) (lits : List Byte) (s : State),
    ws.countP writesLiteral ≤ lits.length → (∀ j k, ws[j]? = some (.copy k) → k < o + j) →
    (ws = [] ∨ o + ws.length ≤ s.dstLen) →
    ∃ m, lzWrites o lits ws s = .ok () (s.setDst m) ∧
      (∀ j w, ws[j]? = some w → Memory.read m (o + j) = some (match w with
        | .literal => lits[(ws.take j).countP writesLiteral]?.getD 0
        | .copy k => dstValue m k)) ∧
      ∀ a, a < o ∨ o + ws.length ≤ a → Memory.read m a = Memory.read s.dst a
  | [], o, lits, s, _, _, _ => ⟨s.dst, rfl, by simp, fun _ _ => rfl⟩
  | .literal :: ws, o, [], s, hl, _, _ => by simp [countP_writesLiteral_cons] at hl
  | .literal :: ws, o, b :: lits, s, hl, hc, hd => by
    have hd' : o + (ws.length + 1) ≤ s.dstLen := by simpa using hd
    have h1 : dstWrite o [b] s = .ok () (s.setDst (Memory.write s.dst o b)) := by
      simp [dstWrite, show o + 1 ≤ s.dstLen by omega, Memory.writeList]
    obtain ⟨m, h2, h3, h4⟩ := lzWrites_ok ws (o + 1) lits (s.setDst (Memory.write s.dst o b))
      (by simpa [countP_writesLiteral_cons] using hl)
      (fun j k h => by have := hc (j + 1) k (by simpa using h); omega) (.inr (by simp only [State.setDst_dstLen]; omega))
    refine ⟨m, ?_, ?_, fun a ha => ?_⟩
    · simp only [lzWrites, Eng.bind_run, h1, h2]
      rfl
    · intro j w hj
      cases j with
      | zero =>
        obtain rfl : Config.LzByte.literal = w := by simpa using hj
        rw [Nat.add_zero, h4 o (by omega)]
        simp
      | succ j =>
        have := h3 j w (by simpa using hj)
        rw [show o + (j + 1) = o + 1 + j by omega, this]
        cases w <;> simp [countP_writesLiteral_cons]
    · simp only [List.length_cons] at ha
      rw [h4 a (by omega)]
      exact Memory.read_write_other _ _ (by omega)
  | .copy i :: ws, o, lits, s, hl, hc, hd => by
    have hd' : o + (ws.length + 1) ≤ s.dstLen := by simpa using hd
    have hi : i < o := by simpa using hc 0 i rfl
    have h0 : dstRead i s = .ok (dstValue s.dst i) s := by simp [dstRead, show i < s.dstLen by omega]
    have h1 : dstWrite o [dstValue s.dst i] s = .ok () (s.setDst (Memory.write s.dst o (dstValue s.dst i))) := by
      simp [dstWrite, show o + 1 ≤ s.dstLen by omega, Memory.writeList]
    obtain ⟨m, h2, h3, h4⟩ := lzWrites_ok ws (o + 1) lits (s.setDst (Memory.write s.dst o (dstValue s.dst i)))
      (by simpa [countP_writesLiteral_cons] using hl)
      (fun j k h => by have := hc (j + 1) k (by simpa using h); omega) (.inr (by simp only [State.setDst_dstLen]; omega))
    refine ⟨m, ?_, ?_, fun a ha => ?_⟩
    · simp only [lzWrites, if_pos hi, Eng.bind_run, h0, h1, h2]
      rfl
    · intro j w hj
      cases j with
      | zero =>
        obtain rfl : Config.LzByte.copy i = w := by simpa using hj
        rw [Nat.add_zero, h4 o (by omega)]
        have : dstValue m i = dstValue s.dst i := by
          unfold dstValue
          rw [h4 i (by omega)]
          simp [Memory.read_write_other _ _ (show o ≠ i by omega)]
        simp [this]
      | succ j =>
        have := h3 j w (by simpa using hj)
        rw [show o + (j + 1) = o + 1 + j by omega, this]
        cases w <;> simp [countP_writesLiteral_cons]
    · simp only [List.length_cons] at ha
      rw [h4 a (by omega)]
      exact Memory.read_write_other _ _ (by omega)

end Sys2Proof.Machine
end

