-- ==== Sys2Proof/Tests/Slice0.lean ====
section
/-! SUPPORT. The model's own tests.  Expected results come from the spec: words written out bit by bit from
spec file 30_encoding.md, and the vectors of spec file 95_test_vectors.md (named in each docstring).  The last part
shows, for every statement with hypotheses, a state and operands that meet them, at the bounds of each clause. -/

namespace Sys2Proof.Tests

open Sys2Proof.Machine

/-! ### Helpers -/

/-- The computation answers a next state of which `p` holds. -/
def answers (o : Host.Outcome State Fault Refusal) (p : State → Bool) : Bool :=
  match o with
  | .next t => p t
  | .fault _ => false
  | .refused _ => false

/-- The job ended with STATUS `v`. -/
def endsWith (o : Host.Outcome State Fault Refusal) (v : Word) : Bool :=
  answers o fun t => t.regs.status == v

/-- The computation is refused for the reason given. -/
def refuses (o : Host.Outcome State Fault Refusal) (r : Refusal) : Bool :=
  match o with
  | .next _ => false
  | .fault _ => false
  | .refused q => decide (q = r)

/-- The decoder reads the instruction from the bit string, in the context. -/
def readsAs (ctx : Ctx) (bits : Bits) (i : Instr) : Bool :=
  match decode ctx bits with
  | .ok j => decide (j = i)
  | .error _ => false

/-- A bit string of zeros and ones written as numbers. -/
def bin (digits : List Nat) : Bits := digits.map fun d => d == 1

/-- A job that runs over the source bytes given, with DST_LEN 64. -/
def job (bytes : List Byte) : State :=
  { State.reset with
    src := Memory.writeList [] 0 bytes, phase := .decodeBlock,
    regs := { State.reset.regs with status := 1, srcLen := BitVec.ofNat 32 bytes.length, dstLen := 64 } }

/-- The job with the sequencer at the point given and its local variables set. -/
def jobAt (bytes : List Byte) (c : Ctl) (loc : Locals) : State :=
  { job bytes with ctl := c, loc := loc }

/-- Cursor A over the whole source, forward. -/
def fwd (bytes : List Byte) : State :=
  { job bytes with a := Cursor.initFwd (job bytes).source 0 bytes.length }

/-- Cursor B over the whole source, backward. -/
def bwd (bytes : List Byte) : State :=
  { job bytes with b := Cursor.initBwd (job bytes).source 0 bytes.length }

/-- A cursor's window, fill and position. -/
def cursorIs (c : Cursor) (window : Word) (fill pos : Int) : Bool :=
  c.window == window && c.fill == fill && c.pos == pos

/-- A chunk read at offset 0 of the source, for the caller given, with capacity `cap`. -/
def chunkAt (bytes : List Byte) (cap : Nat) (dest : ChunkDest) : State :=
  jobAt bytes .chunk { Locals.zero with cend := bytes.length, cap := cap, dest := dest, q := bytes.length, cnt := cap }

/-! ### Well-formedness: an ill-formed term for each check -/

theorem test_wf_bad_magic : (Instr.streamHeaderBadMagic 0 0xC 0).wf = false := by decide
theorem test_wf_bad_reserved : (Instr.streamHeaderBadReserved 0 0 0).wf = false := by decide
theorem test_wf_bad_family : (Instr.streamHeaderBadFamily false false false 6).wf = false := by decide
theorem test_wf_kraken_normal : (Instr.krakenBhNormal 0 false false 0x3FFFF).wf = false := by decide
theorem test_wf_kraken_normal_ck : (Instr.krakenBhNormalCk 0 false false 0x3FFFF 0).wf = false := by decide
theorem test_wf_kraken_bad_sentinel : (Instr.krakenBhBadSentinel 1).wf = false := by decide
theorem test_wf_lzna_normal : (Instr.lznaBhNormal false false 0x3FFF).wf = false := by decide
theorem test_wf_lzna_normal_ck : (Instr.lznaBhNormalCk false false 0x3FFF 0).wf = false := by decide
theorem test_wf_copy_long_bad : (Instr.chunkCopyLongBad 0 5).wf = false := by decide
theorem test_wf_sparse_count : (Instr.sparseMany 1 0 [(0, 0)]).wf = false := by decide
theorem test_wf_sparse_pairs : (Instr.sparseMany 2 0 [(0, 0)]).wf = false := by decide
theorem test_wf_sparse_length : (Instr.sparseMany 2 1 [(0, 0), (0, 2)]).wf = false := by decide
theorem test_wf_sparse_width : (Instr.sparseMany 2 5 [(0, 0), (0, 0)]).wf = false := by decide
theorem test_wf_zero_run_field : (Instr.gammaZeroRun 1 4).wf = false := by decide
theorem test_wf_zero_run_zeros : (Instr.gammaZeroRun 33 0).wf = false := by decide
theorem test_wf_run_count : (Instr.gammaRunCount 0 2).wf = false := by decide
theorem test_wf_residual : (Instr.gammaResidual 1 0 2).wf = false := by decide
theorem test_wf_gamma_code : (Instr.gammaCode .a 32 1).wf = false := by decide
theorem test_wf_distance_small_cb : (Instr.distanceSmall .a 0xF0 0).wf = false := by decide
theorem test_wf_distance_small_field : (Instr.distanceSmall .a 0 16).wf = false := by decide
theorem test_wf_distance_large_cb : (Instr.distanceLarge .a 0xEF 0 0).wf = false := by decide
theorem test_wf_distance_large_field : (Instr.distanceLarge .a 0xF0 16 0).wf = false := by decide
theorem test_wf_length_code : (Instr.lengthCode .a 0 64).wf = false := by decide
theorem test_wf_side_count : (Instr.sideCountCode 0 1).wf = false := by decide
theorem test_wf_more_than_24_width : (Instr.moreThan24 .a 27 0).wf = false := by decide
theorem test_wf_more_than_24_field : (Instr.moreThan24 .a 1 2).wf = false := by decide
theorem test_wf_offset_small : (Instr.lzOffsetTradSmall 0xF 0).wf = false := by decide
theorem test_wf_offset_scaled : (Instr.lzOffsetScaled 27 0).wf = false := by decide
theorem test_wf_offset_early_stop : (Instr.lzOffsetEarlyStop 26 0).wf = false := by decide
theorem test_wf_length_byte : (Instr.lzLengthByte 0xFF).wf = false := by decide
theorem test_wf_init_fwd : (Instr.cursorInitFwd .a 2 1).wf = false := by decide
theorem test_wf_init_bwd : (Instr.cursorInitBwd .a 2 1).wf = false := by decide
theorem test_wf_read_bits : (Instr.readBits .a 0).wf = false ∧ (Instr.readBits .a 25).wf = false := by decide
theorem test_wf_read_bits_zero : (Instr.readBitsZero .a 25).wf = false := by decide
theorem test_wf_more_fwd : (Instr.readMoreThan24Bits .a 27).wf = false := by decide
theorem test_wf_more_bwd : (Instr.readMoreThan24BitsB .a 27).wf = false := by decide

/-! ### Decoding: one word of every row, written out from the encodings of spec file 30_encoding.md -/

/-- R32. -/
theorem test_decode_ctrl :
    readsAs .ctrl (bitsOfBytes [0x00, 0x00, 0x00, 0x01]) (.ctrlStart 0 false) ∧
    readsAs .ctrl (bitsOfBytes [0x80, 0x00, 0x00, 0x0D]) (.ctrlStart 0x10000001 true) ∧
    readsAs .ctrl (bitsOfBytes [0x00, 0x00, 0x00, 0x07]) (.ctrlSoftReset 1 true) ∧
    readsAs .ctrl (bitsOfBytes [0x00, 0x00, 0x00, 0x0C]) (.ctrlForgetStream 1) := by decide

/-- R81, R82: `RUxx1100 Cfffffff`. -/
theorem test_decode_stream_header :
    readsAs .streamHeader (bin [1,0,0,0,1,1,0,0, 0,0,0,0,0,1,0,1]) (.streamHeaderLzna true false false) ∧
    readsAs .streamHeader (bin [0,1,0,0,1,1,0,0, 1,0,0,0,0,1,1,0]) (.streamHeaderKraken false true true) ∧
    readsAs .streamHeader (bin [0,0,0,0,1,1,0,0, 0,0,0,0,1,0,1,0]) (.streamHeaderMermaid false false false) ∧
    readsAs .streamHeader (bin [0,0,0,0,1,1,0,0, 0,0,0,0,1,0,1,1]) (.streamHeaderBitknit false false false) ∧
    readsAs .streamHeader (bin [0,0,0,0,1,1,0,0, 1,0,0,0,1,1,0,0]) (.streamHeaderLeviathan false false true) := by decide

/-- R161, R163 (V-S5 to V-S9): the magic is checked first. -/
theorem test_decode_stream_header_bad :
    readsAs .streamHeader (bitsOfBytes [0x0D, 0x06]) (.streamHeaderBadMagic 0 0xD 6) ∧
    readsAs .streamHeader (bitsOfBytes [0x1D, 0x07]) (.streamHeaderBadMagic 1 0xD 7) ∧
    readsAs .streamHeader (bitsOfBytes [0x1C, 0x06]) (.streamHeaderBadReserved 0 1 6) ∧
    readsAs .streamHeader (bitsOfBytes [0x0C, 0x07]) (.streamHeaderBadFamily false false false 7) ∧
    readsAs .streamHeader (bitsOfBytes [0x0C]) .streamHeaderTruncated := by decide

/-- R83, R84 (V-H1 to V-H6, V-H13). -/
theorem test_decode_kraken_bh :
    readsAs (.krakenBh false) (bitsOfBytes [0x00, 0x00, 0x03]) (.krakenBhNormal 0 false false 3) ∧
    readsAs (.krakenBh false) (bitsOfBytes [0xA9, 0x00, 0x00]) (.krakenBhNormal 0xA true false 0x10000) ∧
    readsAs (.krakenBh true) (bitsOfBytes [0x0C, 0x00, 0x10, 0x12, 0x34, 0x56])
      (.krakenBhNormalCk 0 true true 16 0x123456) ∧
    readsAs (.krakenBh true) (bitsOfBytes [0x07, 0xFF, 0xFF, 0x5A]) (.krakenBhFill 0x5A) ∧
    readsAs (.krakenBh false) (bitsOfBytes [0x0F, 0xFF, 0xFF]) (.krakenBhBadSentinel 3) ∧
    readsAs (.krakenBh false) (bitsOfBytes [0x03, 0xFF, 0xFF]) (.krakenBhBadSentinel 0) ∧
    readsAs (.krakenBh false) (bitsOfBytes [0x00, 0x00]) .krakenBhTruncated ∧
    readsAs (.krakenBh true) (bitsOfBytes [0x00, 0x00, 0x01, 0x12]) .krakenBhTruncated := by decide

/-- R85, R86 (V-H7 to V-H12). -/
theorem test_decode_lzna_bh :
    readsAs (.lznaBh false) (bitsOfBytes [0x40, 0x09]) (.lznaBhNormal false true 9) ∧
    readsAs (.lznaBh true) (bitsOfBytes [0x80, 0x01, 0xAB, 0xCD, 0xEF]) (.lznaBhNormalCk true false 1 0xABCDEF) ∧
    readsAs (.lznaBh false) (bitsOfBytes [0x3F, 0xFF]) .lznaBhWholeMatch ∧
    readsAs (.lznaBh false) (bitsOfBytes [0x7F, 0xFF, 0x33]) (.lznaBhMemset 0x33) ∧
    readsAs (.lznaBh false) (bitsOfBytes [0xBF, 0xFF]) .lznaBhRaw ∧
    readsAs (.lznaBh true) (bitsOfBytes [0xFF, 0xFF]) .lznaBhBad := by decide

/-- R87, R321 (V-O1, V-O2). -/
theorem test_decode_quantum :
    readsAs (.quantum 32) (bin [1, 0,0,0,1, 0,0,0,0,0,0,0,0,0,0,0,0,0,0,1,1,0,0,1]) (.quantumLz 1 25) ∧
    readsAs (.quantum 4) (bitsOfBytes [0x80, 0x00, 0x04]) (.quantumStored 4) ∧
    readsAs (.quantum 5) (bitsOfBytes [0x80, 0x00, 0x04]) (.quantumLz 0 4) ∧
    readsAs (.quantum 4) (bitsOfBytes [0x88, 0x00, 0x04]) (.quantumLz 1 4) ∧
    readsAs (.quantum 16) (bitsOfBytes [0x20, 0x00, 0x3C]) (.quantumEntropy 0x20003C) := by decide

/-- R88, R89 (V-B1 to V-B5). -/
theorem test_decode_copy_chunk :
    readsAs .chunk (bitsOfBytes [0x80, 0x03]) (.chunkCopyShort 3) ∧
    readsAs .chunk (bitsOfBytes [0x8F, 0xFF]) (.chunkCopyShort 0xFFF) ∧
    readsAs .chunk (bitsOfBytes [0x01, 0x00, 0x02]) (.chunkCopyLong 0x10002) ∧
    readsAs .chunk (bitsOfBytes [0x04, 0x00, 0x05]) (.chunkCopyLongBad 1 5) := by decide

/-- R90: `1ttt d{10} s{10}`, here `d = 1`, `s = 3` (V-E3). -/
theorem test_decode_short_chunks :
    readsAs .chunk (bitsOfBytes [0x90, 0x04, 0x03]) (.chunkTansShort 1 3) ∧
    readsAs .chunk (bitsOfBytes [0xA0, 0x04, 0x03]) (.chunkHuff2Short 1 3) ∧
    readsAs .chunk (bitsOfBytes [0xB0, 0x04, 0x03]) (.chunkRleShort 1 3) ∧
    readsAs .chunk (bitsOfBytes [0xC0, 0x04, 0x03]) (.chunkHuff4Short 1 3) ∧
    readsAs .chunk (bitsOfBytes [0xD0, 0x04, 0x03]) (.chunkRecursiveShort 1 3) := by decide

/-- R90: `0ttt D{18} s{18}`, here `D = 15`, `s = 3` (V-B14). -/
theorem test_decode_long_chunks :
    readsAs .chunk (bitsOfBytes [0x10, 0x00, 0x3C, 0x00, 0x03]) (.chunkTansLong 15 3) ∧
    readsAs .chunk (bitsOfBytes [0x20, 0x00, 0x3C, 0x00, 0x03]) (.chunkHuff2Long 15 3) ∧
    readsAs .chunk (bitsOfBytes [0x30, 0x00, 0x3C, 0x00, 0x03]) (.chunkRleLong 15 3) ∧
    readsAs .chunk (bitsOfBytes [0x40, 0x00, 0x3C, 0x00, 0x03]) (.chunkHuff4Long 15 3) ∧
    readsAs .chunk (bitsOfBytes [0x50, 0x00, 0x3C, 0x00, 0x03]) (.chunkRecursiveLong 15 3) := by decide

/-- R88, R240 (V-B9, V-B10). -/
theorem test_decode_illegal_chunks :
    readsAs .chunk (bitsOfBytes [0xE0, 0x00]) (.chunkType6 true 0) ∧
    readsAs .chunk (bitsOfBytes [0x65, 0x00]) (.chunkType6 false 5) ∧
    readsAs .chunk (bitsOfBytes [0xF3, 0x00]) (.chunkType7 true 3) := by decide

/-- R91. -/
theorem test_decode_selector :
    readsAs .selector (bin [0,1]) .entropySelGamma ∧ readsAs .selector (bin [0,0]) .entropySelSparse ∧
    readsAs .selector (bin [1,0]) .entropySelGolombRice ∧ readsAs .selector (bin [1,1]) .entropySelBad := by decide

/-- R92 (V-E1, V-E3, V-E6): the third stream is count 2, width 1, symbols 0x41 and 0x42 with length fields 0 and 1. -/
theorem test_decode_sparse :
    readsAs .sparse (bin [0,0,0,0,0,0,0,0]) .sparseZero ∧
    readsAs .sparse (bin [0,0,0,0,0,0,0,1, 0,1,0,0,0,0,0,1]) (.sparseOne 0x41) ∧
    readsAs .sparse (bin [0,0,0,0,0,0,1,0, 0,0,1, 0,1,0,0,0,0,0,1, 0, 0,1,0,0,0,0,1,0, 1])
      (.sparseMany 2 1 [(0x41, 0), (0x42, 1)]) ∧
    readsAs .sparse (bin [0,0,0,0,0,0,1,0, 1,0,1]) (.sparseMany 2 5 []) := by decide

/-- R93 (V-E2): the payload `4E 00 08 02 07 F8` after its selector. -/
theorem test_decode_gamma_path :
    readsAs .gammaHeader (bin [0,0,1]) (.gammaHeader 0 true) ∧
    readsAs .gammaHeader (bin [1,0,0]) (.gammaHeader 2 false) ∧
    readsAs .gammaRun (bin [1,1]) (.gammaRunCount 0 1) ∧
    readsAs (.residual 0) (bin [0,0,0,0,0,0,0,0,0,0,0,0,0,1]) (.gammaResidual 0 13 0) ∧
    readsAs (.residual 2) (bin [0,0,1,1,0]) (.gammaResidual 2 2 2) ∧
    readsAs .gammaZero (bin [0,0,0,0,0,0,1, 1,1,1,1,1,1,1]) (.gammaZeroRun 6 127) := by decide

/-- R100 to R105. -/
theorem test_decode_codes :
    readsAs (.gammaCode .a) (bin [0,1,1,0]) (.gammaCode .a 1 2) ∧
    readsAs (.distance .a 0x00) (bin [0,0,1,1]) (.distanceSmall .a 0 3) ∧
    readsAs (.distance .b 0xF1) (bin [1,0,0,0,1, 0,0,0,0,0,0,0,0,0,0,1,0]) (.distanceLarge .b 0xF1 17 2) ∧
    readsAs (.lengthCode .a) (bin [0,1, 0,0,0,0,0,1,1]) (.lengthCode .a 1 3) ∧
    readsAs .sideCount (bin [0,1,0]) (.sideCountCode 1 0) ∧
    readsAs (.moreThan24 .a 5) (bin [1,0,0,1,0]) (.moreThan24 .a 5 18) := by decide

/-- R95 to R99. -/
theorem test_decode_lz_bytes :
    readsAs .lzFlag (bitsOf 0x41#8) (.lzFlagOk 0x41) ∧ readsAs .lzFlag (bitsOf 0x80#8) (.lzFlagBad 0) ∧
    readsAs .lzScaling (bitsOf 0x81#8) (.lzScalingPresent 1) ∧ readsAs .lzScaling (bitsOf 0x05#8) (.lzScalingAbsent 5) ∧
    readsAs (.lzOffset false) (bitsOf 0xE3#8) (.lzOffsetTradSmall 0xE 3) ∧
    readsAs (.lzOffset false) (bitsOf 0xF3#8) (.lzOffsetTradLarge 3) ∧
    readsAs (.lzOffset true) (bitsOf 0x08#8) (.lzOffsetScaled 1 0) ∧
    readsAs (.lzOffset true) (bitsOf 0xD7#8) (.lzOffsetScaled 26 7) ∧
    readsAs (.lzOffset true) (bitsOf 0xD8#8) (.lzOffsetEarlyStop 27 0) ∧
    readsAs .lzLength (bitsOf 0xFE#8) (.lzLengthByte 0xFE) ∧ readsAs .lzLength (bitsOf 0xFF#8) .lzLengthEscape := by decide

/-- The opcode table's own numbering of a few rows' words. -/
theorem test_table_words :
    decodeTableWord 32 0x00000001 = some (.ctrlStart 0 false) ∧
    decodeTableWord 16 0x8C86 = some (.streamHeaderKraken true false true) ∧
    decodeTableWord 32 0x07FFFF5A = some (.krakenBhFill 0x5A) ∧
    decodeTableWord 16 0xBFFF = some .lznaBhRaw ∧
    decodeTableWord 24 0x80001A = some (.quantumStored 26) ∧
    decodeTableWord 24 0x000002 = some (.chunkCopyLong 2) ∧
    decodeTableWord 40 0x2000000003 = some (.chunkHuff2Long 0 3) ∧
    decodeTableWord 8 0xFF = some .lzLengthEscape := by decide

/-- An opcode-table word placed after reset is what the next step runs. -/
theorem test_placed_words :
    answers (step (State.reset.withFetchWord 16 0x4C06)) (fun t => t.regs.savedHdr == 0x80000106) ∧
    answers (step (State.reset.withFetchWord 32 0x07FFFF5A)) (fun t => t.bh.checksum == 0x5A && t.bh.kind == .fill) ∧
    answers (step (State.reset.withFetchWord 24 0x000002))
      (fun t => t.lt.lit == [0, 0] && t.loc.lp == 5 && t.loc.dest == .cmd) ∧
    endsWith (step (State.reset.withFetchWord 8 0xE0)) 0x00001A14 := by decide

/-! ### Host commands, reset -/

/-- V-R2, V-R4: SOFT_RESET keeps SAVED_HDR but its VALID bit, and starts no job. -/
theorem test_soft_reset :
    let s : State := { State.reset with
      phase := .finished, sp := 9, off := 4,
      regs := { status := 2, srcLen := 9, dstLen := 4, srcUsed := 9, dstUsed := 4, savedHdr := 0x80000006 } }
    let t : State := { s with host := [⟨0, .regWrite 0 3⟩] }
    answers (exec (.ctrlSoftReset 0 false) s)
      (fun t => t.regs == { status := 0, srcLen := 0, dstLen := 0, srcUsed := 0, dstUsed := 0, savedHdr := 6 }) ∧
    answers (step t) (fun t => t.ctl == .idle && t.phase == .idle && t.regs.savedHdr == 6) := by decide

/-- V-R3: FORGET_STREAM; STATUS stays. -/
theorem test_forget_stream :
    answers (exec (.ctrlForgetStream 0)
      { State.reset with phase := .finished, regs := { State.reset.regs with status := 2, savedHdr := 0x80000006 } })
      (fun t => t.regs.savedHdr == 6 && t.regs.status == 2) := by decide

/-- V-O12: START with an empty output; P1: START with 4 bytes of output, the code table a fresh one (R21). -/
theorem test_start :
    answers (settle (startJob 2147483647) State.reset) (fun t => t.regs.status == 2 && t.regs.srcUsed == 0) ∧
    answers (settle (startJob 2147483647) { State.reset with
        regs := { State.reset.regs with dstLen := 4 }, ct := { State.reset.ct with syms := [(0, 7)] } })
      (fun t => t.regs.status == 1 && t.phase == .expectStreamHeader && t.ctl == .blockStart && t.ct.syms == []) := by decide

/-- V-O13: `DST_LEN = 0x80000000` faults E47. -/
theorem test_start_too_long :
    answers (settle (startJob 2147483647) { State.reset with regs := { State.reset.regs with dstLen := 0x80000000 } })
      (fun t => t.regs.status == 0x00002F44 && t.phase == .faulted && t.regs.srcUsed == 0) := by decide

/-! ### Headers -/

/-- V-S1 to V-S4, and the other two families of S2. -/
theorem test_stream_headers :
    answers (exec (.streamHeaderKraken false false false) State.reset) (fun t => t.regs.savedHdr == 0x80000006) ∧
    answers (exec (.streamHeaderKraken true false false) State.reset) (fun t => t.regs.savedHdr == 0x80000206) ∧
    answers (exec (.streamHeaderKraken false true true) State.reset) (fun t => t.regs.savedHdr == 0x80000186) ∧
    answers (exec (.streamHeaderLzna false false false) State.reset)
      (fun t => t.regs.savedHdr == 0x80000005 && t.loc.s == 2) ∧
    answers (exec (.streamHeaderMermaid false false false) State.reset) (fun t => t.regs.savedHdr == 0x8000000A) ∧
    answers (exec (.streamHeaderBitknit false false false) State.reset) (fun t => t.regs.savedHdr == 0x8000000B) ∧
    answers (exec (.streamHeaderLeviathan false false true) State.reset) (fun t => t.regs.savedHdr == 0x8000008C) := by
  decide

/-- V-S5 to V-S9, V-H4 to V-H6, V-H10: the STATUS of each fault. -/
theorem test_header_faults :
    endsWith (exec (.streamHeaderBadMagic 0 0xD 6) State.reset) 0x00000114 ∧
    endsWith (exec (.streamHeaderBadReserved 0 1 6) State.reset) 0x00000214 ∧
    endsWith (exec (.streamHeaderBadFamily false false false 7) State.reset) 0x00000314 ∧
    endsWith (exec .streamHeaderTruncated State.reset) 0x00000424 ∧
    endsWith (exec (.krakenBhBadSentinel 3) State.reset) 0x00000514 ∧
    endsWith (exec .krakenBhTruncated State.reset) 0x00000724 ∧
    endsWith (exec .lznaBhBad State.reset) 0x00000614 ∧
    endsWith (settle (wholeMatchHeader none) State.reset) 0x00000C44 := by decide

/-- V-H1 to V-H3. -/
theorem test_kraken_block_headers :
    answers (exec (.krakenBhNormal 0 false false 3) State.reset)
      (fun t => t.bh.compressedSize == 4 && t.bh.kind == .coded && t.loc.s == 3) ∧
    answers (exec (.krakenBhNormalCk 0 true true 16 0x123456) State.reset)
      (fun t => t.bh.compressedSize == 17 && t.bh.flag1 && t.bh.flag2 && t.bh.checksum == 0x123456 && t.loc.s == 6) ∧
    answers (exec (.krakenBhFill 0x5A) State.reset)
      (fun t => t.bh.kind == .fill && t.bh.checksum == 0x5A && t.bh.wholeMatchDistance == 0 && t.loc.s == 4) := by decide

/-- V-H7 to V-H9, V-H12. -/
theorem test_lzna_block_headers :
    answers (exec (.lznaBhNormal false true 9) State.reset)
      (fun t => t.bh.compressedSize == 10 && t.bh.flag1 && !t.bh.flag2 && t.loc.s == 2) ∧
    answers (exec (.lznaBhNormalCk false false 1 0xABCDEF) State.reset)
      (fun t => t.bh.compressedSize == 2 && t.bh.checksum == 0xABCDEF && t.loc.s == 5) ∧
    answers (exec (.lznaBhMemset 0x33) State.reset) (fun t => t.bh.kind == .fill && t.bh.checksum == 0x33 && t.loc.s == 3) ∧
    answers (exec .lznaBhRaw { State.reset with loc := { Locals.zero with bs := 3 } })
      (fun t => t.bh.kind == .raw && t.bh.compressedSize == 3 && t.loc.s == 2) := by decide

/-- R165, R341 and V-H13: what the first word of a header cut short leaves in BH. -/
theorem test_truncated_block_headers :
    answers (exec .krakenBhTruncated (job [0x0C, 0x00, 0x10, 0x12]))
      (fun t => t.regs.status == 0x00000724 && t.bh.compressedSize == 17 && t.bh.flag1 && t.bh.flag2 && t.bh.checksum == 0) ∧
    answers (exec .krakenBhTruncated (job [0x07, 0xFF, 0xFF])) (fun t => t.regs.status == 0x00000724 && t.bh == State.reset.bh) ∧
    answers (step { jobAt [0x40, 0x09, 0xAB] .blockHeader Locals.zero with
        sh := { State.reset.sh with family := .lzna, useChecksums := true } })
      (fun t => t.regs.status == 0x00000724 && t.bh.compressedSize == 10 && t.bh.flag1 && !t.bh.flag2) := by decide

/-- R172, R173: a supplied codec whose header ends with the source, and one whose header ends a byte after it. -/
theorem test_whole_match :
    let codec (n : Nat) : Option (List Byte → Config.WholeMatchAnswer) := some fun _ => .distance 1 (by decide) n
    answers (settle (wholeMatchHeader (codec 3)) (job [0x3F, 0xFF, 1]))
      (fun t => t.bh.wholeMatchDistance == 1 && t.bh.kind == .fill && t.loc.s == 3) ∧
    endsWith (settle (wholeMatchHeader (codec 4)) (job [0x3F, 0xFF, 1])) 0x00000724 := by decide

/-! ### Sub-chunks, blocks and fills -/

/-- V-O1: a stored sub-chunk. -/
theorem test_stored_subchunk :
    answers (exec (.quantumStored 4) (jobAt [0x80, 0, 4, 1, 2, 3, 4] .subHeader { Locals.zero with e := 7, cnt := 4 }))
      (fun t => t.dst == [(0, 1), (1, 2), (2, 3), (3, 4)] && t.loc.p == 7 && t.loc.d == 4) := by decide

/-- V-O2: `used` above `cnt`, and `mode = 1` with `used = cnt`. -/
theorem test_bad_subchunk :
    endsWith (exec (.quantumStored 5) (jobAt [0x80, 0, 5, 1, 2, 3, 4, 5] .subHeader { Locals.zero with e := 8, cnt := 4 }))
      0x00001114 ∧
    endsWith (exec (.quantumLz 1 4) (jobAt [0x88, 0, 4, 1, 2, 3, 4] .subHeader { Locals.zero with e := 7, cnt := 4 }))
      0x00001114 := by decide

/-- P6: an LZ sub-chunk's payload bounds; P3: an entropy-only one's chunk. -/
theorem test_other_subchunks :
    answers (exec (.quantumLz 0 25) (jobAt [] .subHeader { Locals.zero with p := 5, e := 33, cnt := 32 }))
      (fun t => t.loc.lp == 8 && t.loc.q == 33 && t.loc.mode == 0 && t.ctl == .tableStart) ∧
    answers (exec (.quantumEntropy 0x20003C) (jobAt [] .subHeader { Locals.zero with p := 5, e := 13, cnt := 16 }))
      (fun t => t.loc.cp == 5 && t.loc.cend == 13 && t.loc.cap == 16 && t.ctl == .chunk) := by decide

/-- V-O3, V-O4, V-O5: a constant fill, a fill that reads what it wrote, and E11. -/
theorem test_fills :
    let fill (dist byte : Word) (off bs : Nat) : State :=
      { jobAt [] .blockBody { Locals.zero with bs := bs } with
        off := off, dst := [(0, 1), (1, 2), (2, 3)],
        bh := { State.reset.bh with kind := .fill, wholeMatchDistance := dist, checksum := byte } }
    answers (step (fill 0 0x5A 0 3)) (fun t => t.dst == [(0, 0x5A), (1, 0x5A), (2, 0x5A)]) ∧
    answers (step (fill 2 0 3 4))
      (fun t => t.dst == [(0, 1), (1, 2), (2, 3), (3, 2), (4, 3), (5, 2), (6, 3)] && t.ctl == .blockEnd) ∧
    endsWith (step (fill 4 0 3 4)) 0x00000B14 := by decide

/-- P1, P8, P9, P10: a verbatim block, E08, E09, E13. -/
theorem test_payload_blocks :
    let block (size : Word) (bs : Nat) (fam : Family) : State :=
      { jobAt [9, 8, 7, 6] .blockBody { Locals.zero with bs := bs } with
        sh := { State.reset.sh with family := fam }, bh := { State.reset.bh with compressedSize := size } }
    answers (step (block 4 4 .kraken)) (fun t => t.dst == [(0, 9), (1, 8), (2, 7), (3, 6)] && t.loc.s == 4) ∧
    endsWith (step (block 5 5 .kraken)) 0x00000824 ∧
    endsWith (step (block 4 3 .kraken)) 0x00000914 ∧
    endsWith (step (block 1 4 .mermaid)) 0x00000D44 := by decide

/-- V-O11, P4: an uncompressed stream's block. -/
theorem test_uncompressed_block :
    let block (dstLen : Word) : State :=
      { jobAt [0x4C, 6, 0xAA, 0xBB] .blockEntry { Locals.zero with s := 2 } with
        sh := { State.reset.sh with uncompressed := true },
        regs := { State.reset.regs with status := 1, srcLen := 4, dstLen := dstLen } }
    answers (step (block 2)) (fun t => t.dst == [(0, 0xAA), (1, 0xBB)] && t.loc.s == 4) ∧
    endsWith (step (block 3)) 0x00000A24 := by decide

/-- R318, P2: a block that ends at 0x40000 is followed by a stream header; one that ends the output is not. -/
theorem test_block_end :
    let done (dstLen : Word) : State :=
      { jobAt [] .blockEnd { Locals.zero with s := 6, bs := 262144 } with
        regs := { State.reset.regs with status := 1, srcLen := 12, dstLen := dstLen } }
    answers (step (done 0x40001)) (fun t => t.phase == .expectStreamHeader && t.sp == 6 && t.off == 0x40000) ∧
    answers (step (done 0x40000))
      (fun t => t.regs.status == 2 && t.regs.srcUsed == 6 && t.regs.dstUsed == 0x40000) := by decide

/-! ### Chunks -/

/-- V-B1, V-B2, V-B3, and V-B6, V-B7: E23 and E22. -/
theorem test_copy_chunks :
    answers (exec (.chunkCopyShort 3) (chunkAt [0x80, 3, 0xAA, 0xBB, 0xCC] 3 .lit))
      (fun t => t.lt.lit == [0xAA, 0xBB, 0xCC] && t.loc.lp == 5) ∧
    answers (exec (.chunkCopyLong 2) (chunkAt [0, 0, 2, 0x11, 0x22] 8 .lit))
      (fun t => t.lt.lit == [0x11, 0x22] && t.loc.lp == 5) ∧
    answers (exec (.chunkCopyShort 0) (chunkAt [0x80, 0] 0 .lit)) (fun t => t.lt.lit == [] && t.loc.lp == 2) ∧
    endsWith (exec (.chunkCopyShort 5) (chunkAt [0x80, 5, 0xAA] 8 .lit)) 0x00001724 ∧
    endsWith (exec (.chunkCopyShort 5) (chunkAt [0x80, 5, 0xAA] 4 .lit)) 0x00001614 := by decide

/-- V-O7: an entropy-only sub-chunk that is a copy chunk. -/
theorem test_entropy_only_copy :
    answers (exec (.chunkCopyLong 2) (chunkAt [0, 0, 2, 0x11, 0x22] 2 .entropy))
      (fun t => t.dst == [(0, 0x11), (1, 0x22)] && t.loc.p == 5 && t.loc.d == 2 && t.ctl == .quantumLoop) := by decide

/-- V-B4, V-B8 to V-B13, R241 for all five layouts' types 1, 3 and 5. -/
theorem test_chunk_faults :
    endsWith (exec (.chunkCopyLongBad 1 0) (chunkAt [4, 0, 0] 8 .lit)) 0x00001514 ∧
    endsWith (step (chunkAt [0x80] 8 .lit)) 0x00001324 ∧
    endsWith (step (chunkAt [0x00, 0] 8 .lit)) 0x00001424 ∧
    endsWith (step (chunkAt [0x20, 0, 0, 0] 8 .lit)) 0x00001424 ∧
    endsWith (exec (.chunkType6 true 0) (chunkAt [0xE0, 0, 0] 8 .lit)) 0x00001A14 ∧
    endsWith (exec (.chunkType7 true 0) (chunkAt [0xF0, 0, 0] 8 .lit)) 0x00001A14 ∧
    endsWith (exec (.chunkRleShort 0 0) (chunkAt [0xB0, 0, 0] 8 .lit)) 0x00001B44 ∧
    endsWith (exec (.chunkTansLong 1 0) (chunkAt [0x10, 0, 4, 0, 0] 8 .lit)) 0x00001B44 ∧
    endsWith (exec (.chunkHuff2Long 0 5) (chunkAt [0x20, 0, 0, 0, 5] 8 .lit)) 0x00001814 ∧
    endsWith (exec (.chunkTansShort 0 0) (chunkAt [0x90, 0, 0] 8 .lit)) 0x00001B44 ∧
    endsWith (exec (.chunkRleLong 1 0) (chunkAt [0x30, 0, 4, 0, 0] 8 .lit)) 0x00001B44 ∧
    endsWith (exec (.chunkRecursiveShort 0 0) (chunkAt [0xD0, 0, 0] 8 .lit)) 0x00001B44 ∧
    endsWith (exec (.chunkRecursiveLong 1 0) (chunkAt [0x50, 0, 4, 0, 0] 8 .lit)) 0x00001B44 := by decide

/-- V-E3, V-B14: the sizes of both layouts' Huffman chunks, and the cursor at the payload; E25 and E23. -/
theorem test_huffman_chunks :
    answers (exec (.chunkHuff2Short 1 3) (chunkAt [0xA0, 4, 3, 0, 0x50, 0x40] 5 .lit))
      (fun t => t.loc.dstSize == 5 && t.loc.srcSize == 3 && cursorIs t.a 0x00504000 0 6 && t.ctl == .selector) ∧
    answers (exec (.chunkHuff2Long 15 3) (chunkAt [0x20, 0, 0x3C, 0, 3, 0, 0x50, 0x40] 16 .lit))
      (fun t => t.loc.dstSize == 16 && t.loc.srcSize == 3 && t.a.lo == 5 && t.a.hi == 8) ∧
    answers (exec (.chunkHuff4Short 1 3) (chunkAt [0xC0, 4, 3, 0, 0x50, 0x40] 5 .lit)) (fun t => t.loc.ctype == 4) ∧
    answers (exec (.chunkHuff4Long 15 3) (chunkAt [0x40, 0, 0x3C, 0, 3, 0, 0x50, 0x40] 16 .lit)) (fun t => t.loc.ctype == 4) ∧
    endsWith (exec (.chunkHuff2Short 1 3) (chunkAt [0xA0, 4, 3, 0, 0x50, 0x40] 4 .lit)) 0x00001914 ∧
    endsWith (exec (.chunkHuff2Short 1 3) (chunkAt [0xA0, 4, 3, 0, 0x50] 5 .lit)) 0x00001724 := by decide

/-! ### Entropy decoder -/

/-- Cursor A at the first payload bit, the code table empty, the sequencer at the point given. -/
def entropyAt (payload : List Byte) (skip : Nat) (c : Ctl) : State :=
  { fwd payload with a := (fwd payload).a.drop skip, ctl := c, ct := { syms := [], codePrefix := params.codePrefixInit } }

/-- R191 and V-E5: the selectors. -/
theorem test_selectors :
    answers (step (entropyAt [0x4E, 0] 0 .selector)) (fun t => t.ctl == .gammaHeader && t.a.fill == 2) ∧
    answers (step (entropyAt [0x00, 0x8A] 0 .selector)) (fun t => t.ctl == .sparse && t.a.window == 0x02280000) ∧
    endsWith (step (entropyAt [0xC0, 0, 0] 0 .selector)) 0x00001D14 ∧
    endsWith (settle (do readSelector .entropySelGolombRice; golombRice none) (entropyAt [0x80, 0, 0] 0 .selector))
      0x00003844 := by decide

/-- V-E1, V-E3, V-E4, V-E6: the sparse path, after its selector. -/
theorem test_sparse_path :
    answers (step (entropyAt [0x00, 0x8A, 0x09, 0x08] 2 .sparse))
      (fun t => t.ct.syms == [(0, 0x41), (1, 0x42)] && t.ct.codePrefix[1] == 2 && t.loc.num == 2 &&
        t.a.consumedPos == 4 && t.ctl == .codesDone) ∧
    answers (step (entropyAt [0x00, 0x50, 0x40] 2 .sparse)) (fun t => t.ct.syms == [(0, 0x41)] && t.loc.num == 1) ∧
    endsWith (step (entropyAt [0x00] 2 .sparse)) 0x00002314 ∧
    endsWith (step (entropyAt [0x00, 0xAA, 0x00] 2 .sparse)) 0x00002414 := by decide

/-- R202: the length field 11 is a length of 12 (E37); the symbol before it has been inserted. -/
theorem test_sparse_length :
    answers (step (entropyAt [0x02, 0x88, 0x20, 0x85, 0x60] 0 .sparse))
      (fun t => t.regs.status == 0x00002514 && t.ct.syms == [(0, 0x41)] && t.phase == .faulted) := by decide

/-- R204, R205: a supplied reader that inserts a symbol and reads 3 bits more; one that fails, one that misuses the cursor. -/
theorem test_golomb_rice :
    let reader (e : Config.GolombRiceEnd) : Option (Config.GolombRiceArgs → Config.GolombRiceAnswer) :=
      some fun _ => { inserts := [(0x41, 1)], bits := 3, result := e }
    let s := entropyAt [0x80, 0x40, 0, 0, 0] 0 .selector
    answers (settle (golombRice (reader (.symbols 1))) s)
      (fun t => t.tmp.forcedBits == 2 && t.ct.syms == [(0, 0x41)] && t.loc.num == 1 && cursorIs t.a 0 (-3) 5 &&
        t.ctl == .codesDone) ∧
    endsWith (settle (golombRice (reader .fail)) s) 0x00002614 ∧
    endsWith (settle (golombRice (reader .misuse)) s) 0x00003664 := by decide

/-- V-E2: the gamma path's header, run count and zero run. -/
theorem test_gamma_path :
    answers (step (entropyAt [0x4E, 0x00] 2 .gammaHeader))
      (fun t => t.tmp.avgBitsX4 == 32 && t.tmp.forcedBits == 0 && t.ctl == .gammaRun && t.a.fill == -3) ∧
    answers (step { entropyAt [0xC0, 0x01, 0x00] 0 .gammaRun with tmp := { State.reset.tmp with sym := 254 } })
      (fun t => t.loc.runLeft == 2 && t.tmp.numSymbols == 2 && t.ctl == .gammaResidual) ∧
    endsWith (step { entropyAt [0xC0, 0x01, 0x00] 0 .gammaRun with tmp := { State.reset.tmp with sym := 255 } }) 0x00001F14 ∧
    answers (step { entropyAt [0x03, 0xFC] 0 .gammaZero with tmp := { State.reset.tmp with sym := 2 } })
      (fun t => t.tmp.sym == 256 && t.ctl == .gammaFinish) := by decide

/-- V-E2: its two residuals, 13 and 9. -/
theorem test_gamma_residual :
    answers (step { entropyAt [0x00, 0x04, 0x00] 0 .gammaResidual with
        tmp := { State.reset.tmp with avgBitsX4 := 32 }, loc := { Locals.zero with runLeft := 2 } })
      (fun t => t.ct.syms == [(0, 0)] && t.ct.codePrefix[1] == 1 && t.tmp.avgBitsX4 == 25 && t.ctl == .gammaResidual) ∧
    answers (step { entropyAt [0x00, 0x40, 0x00] 0 .gammaResidual with
        tmp := { State.reset.tmp with avgBitsX4 := 25, sym := 1 }, loc := { Locals.zero with runLeft := 1 } })
      (fun t => t.ct.syms == [(0, 1)] && t.tmp.avgBitsX4 == 20 && t.tmp.sym == 2 && t.ctl == .gammaZero) := by decide

/-- V-E3: one symbol fills the output; V-E1: no decoder supplied (E57). -/
theorem test_codes_done :
    let s : State := { chunkAt [0xA0, 4, 3, 0, 0x50, 0x40] 5 .lit with ct := { State.reset.ct with syms := [(0, 0x41)] } }
    let at_ (num : Nat) : State := { s with loc := { s.loc with hdr := 3, srcSize := 3, dstSize := 5, num := num } }
    answers (settle (codesDone none) (at_ 1)) (fun t => t.lt.lit == [0x41, 0x41, 0x41, 0x41, 0x41] && t.loc.lp == 6) ∧
    endsWith (settle (codesDone none) (at_ 2)) 0x00003944 := by decide

/-- R215, R242: a supplied decoder with a complete table; E28; a table with a code to spare, and one with a symbol twice. -/
theorem test_huff_decoder :
    let decoder (n : Nat) : Option (Config.HuffArgs → Config.HuffAnswer) := some fun a => .decoded (List.replicate a.dstSize 7) n
    let s (syms : Memory) (last : Word) : State :=
      { chunkAt [0xA0, 4, 3, 0, 0x50, 0x40] 5 .lit with
        loc := { (chunkAt [0xA0, 4, 3, 0, 0x50, 0x40] 5 .lit).loc with hdr := 3, srcSize := 3, dstSize := 5, num := 2 },
        ct := { syms := syms, codePrefix := params.codePrefixInit.set 1 last } }
    answers (settle (codesDone (decoder 3)) (s [(0, 0x41), (1, 0x42)] 2)) (fun t => t.lt.lit == [7, 7, 7, 7, 7] && t.loc.lp == 6) ∧
    endsWith (settle (codesDone (decoder 2)) (s [(0, 0x41), (1, 0x42)] 2)) 0x00001C34 ∧
    refuses (settle (codesDone (decoder 3)) (s [(0, 0x41)] 1)) .openContract ∧
    refuses (settle (codesDone (decoder 3)) (s [(0, 0x41), (1, 0x41)] 2)) .openContract := by decide

/-- R319, R210: a one-symbol chunk whose size is not the sub-chunk's (E18). -/
theorem test_one_symbol_size :
    endsWith (settle (codesDone none)
      { jobAt [] .codesDone { Locals.zero with num := 1, dstSize := 5, cnt := 4 } with
        ct := { State.reset.ct with syms := [(0, 0x41)] } }) 0x00001234 := by decide

/-! ### Cursor operations and codes -/

/-- V-K1, V-K5, V-K7: the initialisations. -/
theorem test_cursor_init :
    answers (exec (.cursorInitFwd .a 0 5) (job [0xB5, 0x0F, 0xF0, 0x12, 0x34])) (fun t => cursorIs t.a 0xB50FF000 0 3) ∧
    answers (exec (.cursorInitBwd .b 0 5) (job [0xB5, 0x0F, 0xF0, 0x12, 0x34]))
      (fun t => cursorIs t.b 0x3412F000 0 2 && t.b.consumedPos == 5) ∧
    answers (exec (.cursorInitBwd .b 0 2) (job [0x30, 0x80])) (fun t => cursorIs t.b 0x80300000 0 (-1)) := by decide

/-- R121 to R123: a range past the source's end gives zeros there; one that ends before it starts is all zeros. -/
theorem test_cursor_init_outside :
    answers (exec (.cursorInitFwd .a 1 9) (job [1, 2])) (fun t => cursorIs t.a 0x02000000 0 4) ∧
    answers (exec (.cursorInitBwd .b 1 3) (job [1, 2])) (fun t => cursorIs t.b 0x00020000 0 0) ∧
    answers (exec (.cursorInitFwd .a 2 1) (job [1, 2])) (fun t => cursorIs t.a 0 0 5) := by decide

/-- R129, R131, R341: what the operation wrote before its refill faults E54 stays. -/
theorem test_fault_keeps_cursor :
    let at_ (window : Word) : State := { fwd [0xFF] with a := { (fwd [0xFF]).a with window := window, fillLevel := 20 } }
    answers (exec (.readDistance .a 0xEF) (at_ 0xF0002000))
      (fun t => t.regs.status == 0x00003664 && cursorIs t.a 0x80000000 38 3) ∧
    answers (exec (.readLength .a) (at_ 0x00800000))
      (fun t => t.regs.status == 0x00003664 && cursorIs t.a 0x80000000 28 3) := by decide

/-- V-K2, V-K4, V-K12, V-K13: fixed-width reads. -/
theorem test_fixed_reads :
    let s := fwd [0xB5, 0x0F, 0xF0, 0x12, 0x34]
    answers (exec (.readBits .a 3) s) (fun t => t.res == 5 && cursorIs t.a 0xA87F8000 3 3) ∧
    answers (exec (.readBit .a) s) (fun t => t.res == 1 && cursorIs t.a 0x6A1FE000 1 3) ∧
    answers (exec (.readBitNorefill .a) s) (fun t => t.res == 1 && cursorIs t.a 0x6A1FE000 1 3) ∧
    answers (exec (.readBitsZero .a 0) s) (fun t => t.res == 0 && cursorIs t.a 0xB50FF000 0 3) ∧
    endsWith (exec (.readBits .a 25) s) 0x00003664 := by decide

/-- V-K3, and R124 on a backward cursor. -/
theorem test_refill :
    let s := fwd [0xB5, 0x0F, 0xF0, 0x12, 0x34]
    let t := bwd [0xB5, 0x0F, 0xF0, 0x12, 0x34]
    answers (exec (.refill .a) { s with a := s.a.drop 3 })
      (fun t => cursorIs t.a 0xA87F8090 (-5) 4 && t.a.consumedPos == 1) ∧
    answers (exec (.consumedPos .a) s) (fun t => t.res == 0) ∧
    answers (exec (.refillBackwards .b) { t with b := t.b.drop 8 }) (fun t => cursorIs t.b 0x12F00F00 0 1) := by decide

/-- V-C5: gamma codes, read as an operation. -/
theorem test_read_gamma :
    answers (exec (.readGamma .a) (fwd [0xC0])) (fun t => t.res == 1 && t.a.fill == 2) ∧
    answers (exec (.readGamma .a) (fwd [0x60])) (fun t => t.res == 4 && t.a.fill == 4) ∧
    answers (exec (.readGamma .a) (fwd [0x00, 0x20])) (fun t => t.res == 2046 && t.a.fill == 22) ∧
    endsWith (exec (.readGamma .a) (fwd [0x00, 0x10])) 0x00003664 := by decide

/-- V-C5: gamma codes, read as elements. -/
theorem test_gamma_code :
    answers (exec (.gammaCode .a 0 0) (fwd [0x80])) (fun t => t.res == 0) ∧
    answers (exec (.gammaCode .a 1 3) (fwd [0x70])) (fun t => t.res == 5) ∧
    answers (exec (.gammaCode .a 10 2047) (fwd [0x00, 0x3F, 0xFF])) (fun t => t.res == 4093 && t.a.fill == 22) := by decide

/-- V-K6, V-K8. -/
theorem test_read_distance :
    answers (exec (.readDistance .a 0) (fwd [0x30, 0x80])) (fun t => t.res == 56 && cursorIs t.a 0x08000000 (-4) 4) ∧
    answers (exec (.readDistanceB .b 0x10) (bwd [0x30, 0x80])) (fun t => t.res == 520) := by decide

/-- V-K9. -/
theorem test_distance_codes :
    answers (exec (.distanceSmall .a 0x00 0) (fwd [0, 0, 0, 0, 0])) (fun t => t.res == 8) ∧
    answers (exec (.distanceLarge .a 0xF0 0 0) (fwd [0, 0, 0, 0, 0])) (fun t => t.res == 8388352) ∧
    answers (exec (.distanceSmall .a 0xEF 0x3FFFF) (fwd [0xFF, 0xFF, 0xFF, 0xFF, 0xFF])) (fun t => t.res == 8388359) ∧
    answers (exec (.distanceLarge .a 0xFF 0x7FFFF 0xFFF) (fwd [0xFF, 0xFF, 0xFF, 0xFF, 0xFF])) (fun t => t.res == 8322815) := by
  decide

/-- V-K10. -/
theorem test_read_length :
    answers (exec (.readLength .a) (fwd [0xFF])) (fun t => t.resOk && t.res == 63) ∧
    answers (exec (.readLength .a) (fwd [1, 0, 0, 0])) (fun t => t.resOk && t.res == 8128 && t.a.fill == -3 && t.a.pos == 6) ∧
    answers (exec (.readLengthB .b) (bwd [0, 0, 0, 0])) (fun t => !t.resOk) := by decide

/-- V-K10, as elements. -/
theorem test_length_code :
    answers (exec (.lengthCode .a 0 63) (fwd [0xFF])) (fun t => t.resOk && t.res == 63) ∧
    answers (exec (.lengthCode .b 7 0) (bwd [0, 0, 0, 1])) (fun t => t.resOk && t.res == 8128) := by decide

/-- V-K11. -/
theorem test_more_than_24 :
    answers (exec (.readMoreThan24Bits .a 26) (fwd [0xFF, 0xFF, 0xFF, 0xC0])) (fun t => t.res == 0x3FFFFFF) ∧
    answers (exec (.readMoreThan24BitsB .b 26) (bwd [0xC0, 0xFF, 0xFF, 0xFF])) (fun t => t.res == 0x3FFFFFF) ∧
    answers (exec (.moreThan24 .a 26 0x3FFFFFF) (fwd [0xFF, 0xFF, 0xFF, 0xC0])) (fun t => t.res == 0x3FFFFFF) := by decide

/-- V-L4, V-L1, V-L10: the side counts 1 and 0, and E45. -/
theorem test_side_count :
    answers (exec (.sideCountCode 1 0) (bwd [0x94, 0x40])) (fun t => t.loc.sideCount == 1 && t.ctl == .offsets) ∧
    answers (exec (.sideCountCode 0 0) (bwd [0x30, 0x80])) (fun t => t.loc.sideCount == 0) ∧
    endsWith (exec (.sideCountCode 32 0) (bwd [0, 0])) 0x00002D14 := by decide

/-! ### LZ table -/

/-- V-L7, V-L2, V-L1: the flag byte and the scaling selector. -/
theorem test_lz_flag_and_scaling :
    let s := jobAt [] .lzFlag { Locals.zero with lp := 3, q := 20, cnt := 18 }
    answers (exec (.lzFlagOk 0) s) (fun t => t.loc.cp == 3 && t.loc.lp == 3 && t.loc.cap == 18 && t.loc.dest == .lit) ∧
    endsWith (exec (.lzFlagBad 0) s) 0x00002A14 ∧
    answers (exec (.lzScalingPresent 0) s) (fun t => t.lt.scaling == 1 && t.loc.lp == 4 && t.loc.cp == 4) ∧
    answers (exec (.lzScalingAbsent 0) s) (fun t => t.lt.scaling == 0 && t.loc.lp == 3 && t.loc.cp == 3) := by decide

/-- V-L1, V-K9, V-L2, V-L6: an offset of each row. -/
theorem test_lz_offsets :
    let zeros := fwd [0, 0, 0, 0, 0]
    let scaled : State := { fwd [0x80, 0x80] with lt := { State.reset.lt with scaling := 1 } }
    answers (exec (.lzOffsetTradSmall 0 0) (fwd [0x30, 0x80])) (fun t => t.lt.offs == [-56#32]) ∧
    answers (exec (.lzOffsetTradLarge 0) zeros) (fun t => t.lt.offs == [-8388352#32]) ∧
    answers (exec (.lzOffsetScaled 1 0) scaled) (fun t => t.lt.offs == [-9#32] && t.loc.idx == 1) ∧
    answers (exec (.lzOffsetEarlyStop 27 0) scaled)
      (fun t => t.regs.status == 0x00003458 && t.phase == .stopped) := by decide

/-- V-L3: the scaled correction. -/
theorem test_scaled_correction :
    answers (step { jobAt [] .offsets Locals.zero with
        lt := { State.reset.lt with scaling := 2, offs := [-9#32], extra := some [3] } })
      (fun t => t.lt.offs == [-21#32] && t.ctl == .sideValues) := by decide

/-- R278, R341: the offset before the one that faults E51 is corrected. -/
theorem test_correction_fault :
    answers (step { jobAt [] .offsets Locals.zero with
        lt := { State.reset.lt with scaling := 2, offs := [-9#32, 0xC0000000], extra := some [3, 1] } })
      (fun t => t.regs.status == 0x00003314 && t.lt.offs == [-21#32, 0xC0000000]) := by decide

/-- V-L5: lengths, and the escape with the side value 10. -/
theorem test_lz_lengths :
    let s : State := { jobAt [] .lengths { Locals.zero with sideCount := 1 } with lt := { State.reset.lt with side := [10] } }
    answers (exec (.lzLengthByte 0) s) (fun t => t.lt.lens == [3]) ∧
    answers (exec (.lzLengthByte 0xFE) s) (fun t => t.lt.lens == [257]) ∧
    answers (exec .lzLengthEscape s) (fun t => t.lt.lens == [268] && t.loc.sideUsed == 1) := by decide

/-- V-L8, V-L9, P6: E41, E40 before it, and the seed. -/
theorem test_table_start :
    let s (mode q : Nat) : State := jobAt [1, 2, 3, 4, 5, 6, 7, 8, 9, 10, 11, 12, 13] .tableStart
      { Locals.zero with mode := mode, q := q }
    endsWith (step (s 0 12)) 0x00002924 ∧ endsWith (step (s 2 12)) 0x00002814 ∧
    answers (step (s 1 13)) (fun t => t.loc.lp == 8 && t.dst == [(0, 1), (1, 2), (2, 3), (3, 4), (4, 5), (5, 6), (6, 7), (7, 8)]) :=
  by decide

/-- P6: no run executor supplied (E58). -/
theorem test_no_lz_runs : endsWith (settle (lzRuns none) (jobAt [] .lzRuns Locals.zero)) 0x00003A44 := by decide

/-- R311: a supplied executor's literals and copies, after the seed; one that writes a byte too few. -/
theorem test_lz_runs :
    let run (ws : List Config.LzByte) : Option (Nat → LzTable → Nat → Nat → Config.LzAnswer) :=
      some fun _ _ _ _ => { writes := ws, result := .ok }
    let s : State := { jobAt [] .lzRuns { Locals.zero with cnt := 12, q := 9 } with
      dst := [(0, 1), (1, 2)], lt := { State.reset.lt with lit := [5, 6] } }
    answers (settle (lzRuns (run [.literal, .copy 8, .literal, .copy 1])) s)
      (fun t => t.dst == [(0, 1), (1, 2), (8, 5), (9, 5), (10, 6), (11, 2)] && t.loc.p == 9 && t.loc.d == 12 &&
        t.ctl == .quantumLoop) ∧
    refuses (settle (lzRuns (run [.literal, .copy 8, .literal])) s) .openContract := by decide

/-! ### The host port -/

/-- R33, R34, R31: register accesses; R61, R62: the host's memory accesses. -/
theorem test_host_accesses :
    let s (op : HostOp) : State := { State.reset with host := [⟨0, op⟩] }
    answers (step (s (.regWrite 2 9))) (fun t => t.regs.srcLen == 9 && t.host == []) ∧
    answers (step (s (.regWrite 1 9))) (fun t => t.regs == State.reset.regs) ∧
    answers (step (s (.srcWrite 3 0xAB))) (fun t => t.src == [(3, 0xAB)]) ∧
    answers (step { s (.dstRead 3) with dst := [(3, 0xCD)] }) (fun t => t.hostData == 0xCD) := by decide

/-- R380: an access waits until the block step is over. -/
theorem test_host_waits :
    answers (step { jobAt [] .blockEnd { Locals.zero with bs := 4 } with host := [⟨0, .regWrite 0 2⟩] })
      (fun t => t.host == [⟨0, .regWrite 0 2⟩] && t.ctl == .blockStart) ∧
    answers (step { jobAt [] .blockStart Locals.zero with host := [⟨2, .regWrite 0 2⟩] })
      (fun t => t.host == [⟨1, .regWrite 0 2⟩] && t.ctl == .streamHeader) := by decide

/-! ### Another record of parameters (R10, file 93 Part 2) -/

/-- R91: a model that takes the selectors the other way round reads them so. -/
theorem test_other_grammar :
    decode .selector (bin [0, 1]) { grammar with selector := fun bs => decodeSelector (bs.map not) } =
      .ok .entropySelGolombRice := rfl

/-- R319: an entropy-only sub-chunk whose 3 header bytes are consumed; at the stated default none is (the chunk begins at `p`). -/
theorem test_other_parameter :
    answers (execWith { params with entropyHeader := 3 } (.quantumEntropy 0) (jobAt [] .subHeader Locals.zero))
      (fun t => t.loc.cp == 3) = true ∧
    answers (exec (.quantumEntropy 0) (jobAt [] .subHeader Locals.zero)) (fun t => t.loc.cp == 0) = true := by decide

/-! ### Witnesses: the hypotheses of every statement are met, at the bounds of each clause -/

/-- A running job at a block's end, the output not yet full. -/
def running : State :=
  { jobAt [] .blockEnd { Locals.zero with bs := 4 } with dst := [(0, 7)] }

theorem test_witness_running_inv : running.Inv where
  direct := rfl
  memories := by decide
  status := .inl (by decide)
  block := by unfold State.blockInRange; decide
  saved := by decide

/-- StepKeepsInvariant, StepKeepsMemories, PositionsGrow. -/
theorem test_witness_runs :
    running.Inv ∧ running.memoriesCanonical ∧ running.busy = true ∧
    answers (step running) (fun t => t.busy && t.off == 4 && t.ctl == .blockStart) = true :=
  ⟨test_witness_running_inv, by decide, by decide, by decide⟩

/-- EngineLeavesHostAlone, with a block's last byte at DST_LEN - 1. -/
theorem test_witness_engine_leaves_host_alone :
    let s : State := { jobAt [] .blockBody { Locals.zero with bs := 64 } with bh := { State.reset.bh with kind := .fill } }
    s.direct = [] ∧ s.boundary = false ∧
    answers (step s) (fun t => t.ctl == .blockEnd && Memory.read t.dst 63 == some 0 && Memory.read t.dst 64 == none) := by decide

/-- DecodeEncode: a chunk of 16 bits, and one of 8 bits with 8 more after it; EncodeDecode: 26 plain bits. -/
theorem test_witness_decode_encode :
    (Ctx.chunk.admits (.chunkCopyShort 3) = true ∧ encode (.chunkCopyShort 3) = some (bitsOfBytes [0x80, 3])) ∧
    (Ctx.chunk.admits (.chunkType6 true 0) = true ∧ encode (.chunkType6 true 0) = some (bitsOfBytes [0xE0])) ∧
    (Ctx.sparse.admits (.sparseMany 2 1 [(0x41, 0), (0x42, 1)]) = true ∧
      (encode (.sparseMany 2 1 [(0x41, 0), (0x42, 1)])).isSome = true) ∧
    readsAs (.moreThan24 .a 26) (bin [1, 1]) (.moreThan24 .a 26 0x3000000) := by decide

/-- StepRunsInstruction: an element at the source, one of a cursor, a CTRL word, one without a command, an operation, an element that
cannot be read, an access that waits. -/
theorem test_witness_step_runs_instruction :
    (let s := jobAt [0x0C, 0x06] .streamHeader Locals.zero
     s.direct = [] ∧ s.expects = some .streamHeader ∧
     readsAs .streamHeader (s.supply .streamHeader) (.streamHeaderKraken false false false) ∧ s.ctl ≠ .sideValues) ∧
    (let s : State := { fwd [0xFF] with ctl := .sideValues, loc := { Locals.zero with sideCount := 1 } }
     s.direct = [] ∧ s.expects = some (.lengthCode .a) ∧
     readsAs (.lengthCode .a) (s.supply (.lengthCode .a)) (.lengthCode .a 0 63) ∧ s.ctl = .sideValues) ∧
    (let s : State := { State.reset with host := [⟨0, .regWrite 0 4⟩] }
     s.boundary = true ∧ readsAs .ctrl (bitsOf 4#32) (.ctrlForgetStream 0)) ∧
    (match decode .ctrl (bitsOf 8#32) with | .ok _ => false | .error e => decide (e = .noCommand)) = true ∧
    (let s : State := { State.reset with direct := [.refill .a] }; s.boundary = true ∧ s.host = []) ∧
    (let s := chunkAt [0x80] 8 .lit
     s.direct = [] ∧ s.expects = some .chunk ∧
     (match decode .chunk (s.supply .chunk) with | .ok _ => false | .error e => decide (e = .truncatedChunk)) = true) ∧
    (let s : State := { State.reset with host := [⟨1, .regRead 0⟩] }; s.boundary = true ∧ s.host = [⟨0 + 1, .regRead 0⟩]) := by
  decide

/-- ElementsAreThere: a step that is refused, for another reason. -/
theorem test_witness_elements_are_there :
    let s : State := { jobAt [] .blockStart Locals.zero with host := [⟨0, .srcWrite 0 1⟩] }
    s.direct = [] ∧ (match step s with | .refused r => decide (r = .hostDuty) | _ => false) = true := by decide

/-- RegisterWindow: words 0, 5, 6 and 7, while a job runs and while none does. -/
theorem test_witness_register_window :
    let idle (op : HostOp) : State := { State.reset with host := [⟨0, op⟩] }
    let busy (op : HostOp) : State := { jobAt [] .blockStart Locals.zero with host := [⟨0, op⟩] }
    ((idle (.regRead 0)).boundary = true ∧ (idle (.regRead 0)).busy = false) ∧
    ((busy (.regRead 0)).boundary = true ∧ (busy (.regRead 0)).busy = true) ∧
    answers (step (busy (.regRead 1))) (fun t => t.hostData == 1) ∧
    answers (step (busy (.regRead 5))) (fun t => t.fresh == 1) ∧
    answers (step (busy (.regRead 6))) (fun t => t.hostData == 0 && t.fresh == 0) ∧
    answers (step (idle (.regRead 7))) (fun t => t.hostData == 0) ∧
    answers (step (idle (.regWrite 2 5))) (fun t => t.regs.srcLen == 5) ∧
    answers (step (idle (.regWrite 3 5))) (fun t => t.regs.dstLen == 5) ∧
    answers (step (busy (.regWrite 3 5))) (fun t => t.regs.dstLen == 64) := by decide

/-- HostSpaces: the first and last offsets, and an access while a job runs. -/
theorem test_witness_host_spaces :
    let idle (op : HostOp) : State := { State.reset with host := [⟨0, op⟩] }
    answers (step (idle (.srcWrite 4294967294 1))) (fun t => t.src == [(4294967294, 1)]) ∧
    answers (step (idle (.dstWrite 0 1))) (fun t => t.dst == [(0, 1)]) ∧
    (let s : State := { jobAt [] .blockStart Locals.zero with host := [⟨0, .dstRead 0⟩] }
     s.boundary = true ∧ s.busy = true) := by decide

/-- Start, ForgetStream, SoftReset: a job runs; none does. -/
theorem test_witness_host_commands : State.reset.busy = false ∧ running.busy = true := by decide

/-- FaultAction. -/
theorem test_witness_fault_action :
    (match (raise .e01 : Eng Unit) running with
     | .error (.raise c) u => decide (c = .e01 ∧ u = running)
     | _ => false) = true := by decide

/-- IllegalRowsFault: the least `k` of an early stop. -/
theorem test_witness_early_stop : 27 ≤ (27#5).toNat := by decide

/-- Start: a DST_LEN at the limit and one above it. -/
theorem test_witness_start : (0#32).toNat ≤ Config.maxDstLen ∧ Config.maxDstLen < (0xFFFFFFFF#32).toNat := by
  unfold Config.maxDstLen
  constructor
  · exact Nat.zero_le _
  · have h : (0xFFFFFFFF#32).toNat = 4294967295 := by decide
    omega

/-- BlockHeaders: the headers cut short: 3 and 5 bytes of a normal header, 2 bytes, 3 bytes of a fill; the LZNA-family's. -/
theorem test_witness_truncated_headers :
    (let v : BitVec 24 := 0x0C#8 ++ 0x00#8 ++ 0x10#8
     let s := job [0x0C, 0x00, 0x10]
     srcValue s.src 0 ++ srcValue s.src 1 ++ srcValue s.src 2 = v ∧ 0 + 3 ≤ s.srcLen ∧ v.extractLsb' 0 18 ≠ 0x3FFFF#18) ∧
    (job [0x0C, 0x00]).srcLen < 0 + 3 ∧ (0x07FFFF#24).extractLsb' 0 18 = 0x3FFFF#18 ∧
    (let s (bytes : List Byte) : State := { jobAt bytes .blockHeader Locals.zero with
       sh := { State.reset.sh with family := .bitknit, useChecksums := true } }
     (s []).direct = [] ∧ (s []).ctl = .blockHeader ∧ (s [0x40]).srcLen < 0 + 2 ∧
     0 + 2 ≤ (s [0x40, 9]).srcLen ∧ (s [0x40, 9, 1, 2]).srcLen < 0 + 5 ∧ (0x4009#16).extractLsb' 0 14 ≠ 0x3FFF#14 ∧
     (s [0x7F, 0xFF]).srcLen = 0 + 2 ∧ srcValue (s [0x7F, 0xFF]).src 0 ++ srcValue (s [0x7F, 0xFF]).src 1 = 0x7FFF#16) := by
  decide

/-- SubchunkHeaders: an LZ payload that ends with the quantum, one byte short of `cnt`; a stored one that ends with it.
SubchunkFaults: one byte too many, for each clause. -/
theorem test_witness_subchunks :
    (let s := jobAt [0x80, 0, 3, 1, 2, 3] .subHeader { Locals.zero with e := 6, cnt := 4 }
     s.loc.p + 3 + (3#19).toNat ≤ s.loc.e ∧ (3#19).toNat < s.loc.cnt ∧ s.loc.e < s.loc.p + 3 + (4#19).toNat) ∧
    (let s := jobAt [0x80, 0, 4, 1, 2, 3, 4] .subHeader { Locals.zero with e := 7, cnt := 4, d := 60 }
     s.loc.p + 3 + (4#19).toNat ≤ s.loc.e ∧ (4#19).toNat = s.loc.cnt ∧ s.loc.e ≤ s.srcLen ∧
     s.loc.d + s.loc.cnt ≤ s.dstLen ∧ (1#4) ≠ 0) ∧
    (let s := jobAt [0x80, 0, 5, 1, 2, 3, 4, 5] .subHeader { Locals.zero with e := 8, cnt := 4 }
     s.loc.p + 3 + (5#19).toNat ≤ s.loc.e ∧ s.loc.cnt < (5#19).toNat) := by decide

/-- Two bytes for an entropy-only sub-chunk, ending at DST_LEN. -/
def lastCopy : State :=
  { chunkAt [0x80, 2, 1, 2] 2 .entropy with loc := { (chunkAt [0x80, 2, 1, 2] 2 .entropy).loc with d := 62 } }

/-- CopyChunks, for the callers that check, and of no bytes. -/
theorem test_witness_copy_chunks :
    (lastCopy.copyFits 2 (2#12).toNat ∧ lastCopy.accepts (lastCopy.copied 2 2) (2 + 2)) ∧
    (let s := chunkAt [0, 0, 1, 9, 0, 0, 0] 1 .cmd; s.copyFits 3 (1#18).toNat ∧ s.accepts (s.copied 3 1) (3 + 1)) ∧
    (let s := chunkAt [0x80, 0] 0 .extra; s.copyFits 2 (0#12).toNat ∧ s.accepts (s.copied 2 0) (2 + 0)) :=
  ⟨⟨by decide, rfl, by decide⟩, ⟨by decide, (by decide : 0 + (3 + 1) + 3 ≤ 7)⟩, ⟨by decide, rfl⟩⟩

/-- ChunkCallerFaults: one byte off, for each caller. -/
theorem test_witness_chunk_caller_faults :
    (let s := chunkAt [0x80, 1, 1] 2 .entropy; s.copyFits 2 (1#12).toNat ∧ s.rejects (s.copied 2 1) (2 + 1)) ∧
    (let s := chunkAt [0x80, 1, 9, 0, 0] 1 .cmd; s.copyFits 2 (1#12).toNat ∧ s.rejects (s.copied 2 1) (2 + 1)) ∧
    (let s := chunkAt [0x80, 1, 9] 1 .extra; s.copyFits 2 (1#12).toNat ∧ s.rejects (s.copied 2 1) (2 + 1)) :=
  ⟨⟨by decide, (by decide : (1 : Nat) ≠ 2)⟩, ⟨by decide, (by decide : 5 < 0 + (2 + 1) + 3)⟩, ⟨by decide, (by decide : (1 : Nat) ≠ 0)⟩⟩

/-- ChunkSizeFaults: ranges of 1 byte, and of one byte less than each header. -/
theorem test_witness_chunk_headers :
    (let s := chunkAt [0x80] 8 .lit
     s.direct = [] ∧ s.ctl = .chunk ∧ s.loc.cend ≤ s.srcLen ∧ s.loc.cend < s.loc.cp + 2) ∧
    (let s := chunkAt [0x00, 0] 8 .lit
     s.loc.cp + 2 ≤ s.loc.cend ∧ s.loc.cend < s.loc.cp + 3 ∧ (srcValue s.src s.loc.cp).toNat / 16 % 8 = 0) ∧
    (let s := chunkAt [0xD0, 0] 8 .lit; s.loc.cend < s.loc.cp + 3 ∧ (srcValue s.src s.loc.cp).toNat / 16 % 8 = 5) ∧
    (let s := chunkAt [0x10, 0, 0, 0] 8 .lit; s.loc.cend < s.loc.cp + 5 ∧ (srcValue s.src s.loc.cp).toNat / 16 % 8 = 1) := by
  decide

/-- ChunkSizeFaults: one byte above the capacity, one byte short of the payload, equal sizes. -/
theorem test_witness_chunk_size_faults :
    (let s := chunkAt [0x80, 3, 1, 2] 2 .lit
     s.loc.cap < (3#12).toNat ∧ (2#12).toNat ≤ s.loc.cap ∧ s.loc.cap < (3#18).toNat ∧
     (2#18).toNat ≤ s.loc.cap ∧ s.loc.cend < s.loc.cp + 3 + (2#18).toNat) ∧
    (let s := chunkAt [0x80, 3, 1, 2] 3 .lit; (3#12).toNat ≤ s.loc.cap ∧ s.loc.cend < s.loc.cp + 2 + (3#12).toNat) ∧
    (let s := chunkAt [0x20, 0, 0, 0, 1, 9] 1 .lit
     (0#18).toNat + 1 ≤ (1#18).toNat ∧ (0#18).toNat < (1#18).toNat + 1 ∧ s.loc.cp + 5 + (0#18).toNat ≤ s.loc.cend ∧
     s.loc.cap < (1#18).toNat + 1) ∧
    (let s := chunkAt [0xA0, 0, 1] 8 .lit
     (1#10).toNat < (1#10).toNat + (0#10).toNat + 1 ∧ s.loc.cend < s.loc.cp + 3 + (1#10).toNat) := by decide

/-- HuffChunks and UnsupportedChunks: payload and output fit exactly. -/
theorem test_witness_compressed_chunks :
    (let s := chunkAt [0xA0, 0, 1, 9] 2 .lit; s.loc.cend ≤ s.srcLen ∧ s.payloadFits 3 (1#10).toNat ((1#10).toNat + (0#10).toNat + 1)) ∧
    (let s := chunkAt [0x20, 0, 4, 0, 1, 9] 2 .lit
     s.loc.cend ≤ s.srcLen ∧ (1#18).toNat < (1#18).toNat + 1 ∧ s.payloadFits 5 (1#18).toNat ((1#18).toNat + 1)) := by decide

/-- EntropySelectors: two valid bits; GolombRice: twelve. -/
theorem test_witness_selectors :
    (let s : State := { fwd [0, 0, 1] with a := (fwd [0, 0, 1]).a.drop 22 }
     s.a.sound ∧ s.a.fill ≤ 22 ∧ s.a.reads s.source [false, true]) ∧
    (let s : State := { fwd [0, 0, 0] with a := (fwd [0, 0, 0]).a.drop 22 }; s.a.sound ∧ s.a.reads s.source [false, false]) ∧
    (let s : State := { fwd [0, 0, 3] with a := (fwd [0, 0, 3]).a.drop 22 }; s.a.sound ∧ s.a.reads s.source [true, true]) ∧
    (let s : State := { fwd [0, 8, 0] with a := (fwd [0, 8, 0]).a.drop 12, ct := { syms := [], codePrefix := firstSlots } }
     s.a.sound ∧ s.a.fill ≤ 12 ∧ s.a.reads s.source [true, false] ∧ s.a.dir = .fwd ∧ s.ct.codePrefix = firstSlots ∧
     (1 ≤ ((0x41#8, 11) : Byte × Nat).2 ∧ ((0x41#8, 11) : Byte × Nat).2 ≤ 11)) := by decide

/-- SparseShort: eight, sixteen and eleven valid bits; SparseMany: the widest length field, at its bound. -/
theorem test_witness_sparse :
    (let s : State := { fwd [0, 0, 0] with a := (fwd [0, 0, 0]).a.drop 16 }
     s.a.sound ∧ s.a.fill ≤ 16 ∧ s.a.reads s.source (bitsOf 0#8)) ∧
    (let s : State := { fwd [0, 1, 0x41] with a := (fwd [0, 1, 0x41]).a.drop 8 }
     s.a.sound ∧ s.a.fill ≤ 8 ∧ s.a.reads s.source (bitsOf 1#8 ++ bitsOf 0x41#8)) ∧
    (let s : State := { fwd [0, 0, 0x15] with a := (fwd [0, 0, 0x15]).a.drop 13 }
     s.a.sound ∧ s.a.fill ≤ 13 ∧ 4 < (5#3).toNat ∧ s.a.reads s.source (bitsOf 2#8 ++ bitsOf 5#3)) ∧
    (let s : State := { fwd [0x02, 0x88, 0x34, 0x84, 0x80] with ct := { syms := [], codePrefix := params.codePrefixInit } }
     s.a.sound ∧ s.a.fill ≤ 13 ∧ s.a.dir = .fwd ∧ (Instr.sparseMany 2 4 [(0x41, 0xA), (0x42, 4)]).wf = true ∧
     (match encode (.sparseMany 2 4 [(0x41, 0xA), (0x42, 4)]) with
      | some bits => decide (s.a.reads s.source bits)
      | none => false) = true ∧ (0xA#4).toNat + 1 ≤ 11 ∧ s.ct.codePrefix = firstSlots) ∧
    (let s : State := { fwd [0x02, 0x88, 0x20, 0x85, 0x60] with ct := { syms := [], codePrefix := firstSlots } }
     s.a.sound ∧ s.a.fill ≤ 13 ∧ s.a.dir = .fwd ∧ (Instr.sparseMany 2 4 [(0x41, 0), (0x42, 0xB)]).wf = true ∧
     (match encode (.sparseMany 2 4 [(0x41, 0), (0x42, 0xB)]) with
      | some bits => decide (s.a.reads s.source bits)
      | none => false) = true ∧ (0#4).toNat + 1 ≤ 11 ∧ 11 < (0xB#4).toNat + 1) := by decide

/-- GammaHeader: two valid bits; GammaZeroRun and GammaRunCount: 7 and 8 leading zeros, 256 symbols and one more. -/
theorem test_witness_gamma_path :
    (let s : State := { fwd [0, 0, 2, 0x80] with a := (fwd [0, 0, 2, 0x80]).a.drop 22 }
     s.a.sound ∧ s.a.fill ≤ 22 ∧ s.a.dir = .fwd ∧ s.a.reads s.source (bitsOf 2#2 ++ [true])) ∧
    (let s : State := { fwd [0, 0x80, 0] with a := (fwd [0, 0x80, 0]).a.drop 1 }
     s.a.sound ∧ s.a.fill ≤ 1 ∧ wfCode 7 8 0 = true ∧ s.a.reads s.source (zerosOneBits 7 8 0)) ∧
    (let s := fwd [0, 0x80, 0]; s.a.sound ∧ s.a.fill ≤ 1 ∧ wfCode 8 9 0 = true ∧ s.a.reads s.source (zerosOneBits 8 9 0)) ∧
    (let s : State := { fwd [1, 0, 0] with tmp := { State.reset.tmp with sym := 1 } }
     s.a.sound ∧ s.a.dir = .fwd ∧ wfCode 7 8 0 = true ∧ s.a.reads s.source (zerosOneBits 7 8 0) ∧
     s.tmp.sym + (2 ^ (7 + 1) + 0 - 2 + 1) ≤ 256 ∧ 256 < s.tmp.sym + (2 ^ (7 + 1) + 1 - 2 + 1)) ∧
    (let s := fwd [1, 1, 0]; s.a.reads s.source (zerosOneBits 7 8 1)) := by decide

/-- GammaResidual: lengths 1 and 11 are legal, 0 and 12 are not; 20 leading zeros are legal, 21 are not. -/
theorem test_witness_gamma_residual :
    (let s : State := { fwd [0, 4, 0] with tmp := { State.reset.tmp with avgBitsX4 := 32 }, ct := { syms := [], codePrefix := params.codePrefixInit } }
     s.a.filled ∧ s.a.dir = .fwd ∧ 13 ≤ 20 / 2 ^ s.tmp.forcedBits.toNat ∧ s.a.reads s.source (zerosOneBits 13 0 0) ∧
     (s.ct.codePrefix[1]?.getD 0).toNat < 1280 ∧ zz 13 + (s.tmp.avgBitsX4 + 2) / 4 = 1) ∧
    (let s := { fwd [0x02, 0, 0] with tmp := { State.reset.tmp with avgBitsX4 := 32 } }
     s.a.reads s.source (zerosOneBits 6 0 0) ∧ zz 6 + (s.tmp.avgBitsX4 + 2) / 4 = 11) ∧
    (let s := { fwd [0, 1, 0] with tmp := { State.reset.tmp with avgBitsX4 := 32 } }
     s.a.filled ∧ s.a.reads s.source (zerosOneBits 15 0 0) ∧ zz 15 + (s.tmp.avgBitsX4 + 2) / 4 = 0) ∧
    (let s := { fwd [0, 0x80, 0] with tmp := { State.reset.tmp with avgBitsX4 := 32 } }
     s.a.reads s.source (zerosOneBits 8 0 0) ∧ zz 8 + (s.tmp.avgBitsX4 + 2) / 4 = 12) ∧
    (let s := fwd [0, 0, 8]; s.a.reads s.source (zerosOneBits 20 0 0)) ∧
    (let s := fwd [0, 0, 4]
     s.a.filled ∧ 20 / 2 ^ s.tmp.forcedBits.toNat < 21 ∧ wfCode 21 0 0 = true ∧ s.a.reads s.source (zerosOneBits 21 0 0)) := by
  decide

/-- GammaCode: 10 and 11 leading zeros; LengthCode: 12 and 13; SideCount: 18 and 19; MoreThan24: 0, 24, 25 and 26 bits. -/
theorem test_witness_codes :
    (let s := fwd [0, 0x20, 0, 0]
     (s.cursor .a).filled ∧ wfCode 10 11 0 = true ∧ (s.cursor .a).reads s.source (zerosOneBits 10 11 0)) ∧
    (let s := fwd [0, 0x10, 0, 0]
     (s.cursor .a).filled ∧ wfCode 11 12 0 = true ∧ (s.cursor .a).reads s.source (zerosOneBits 11 12 0)) ∧
    (let s := fwd [0, 8, 0, 0, 0]
     (s.cursor .a).dir = selDir .a ∧ wfCode 12 18 0 = true ∧ (s.cursor .a).reads s.source (zerosOneBits 12 18 0)) ∧
    (let s := bwd [0, 0, 0, 4, 0]
     (s.cursor .b).filled ∧ (s.cursor .b).dir = selDir .b ∧ wfCode 13 19 0 = true ∧
     (s.cursor .b).reads s.source (zerosOneBits 13 19 0)) ∧
    (let s := bwd [0, 0, 0, 0x20, 0, 0]
     s.b.filled ∧ s.b.dir = .bwd ∧ wfCode 18 18 0 = true ∧ s.b.reads s.source (zerosOneBits 18 18 0)) ∧
    (let s := bwd [0, 0, 0, 0x10, 0, 0]; wfCode 19 19 0 = true ∧ s.b.reads s.source (zerosOneBits 19 19 0)) ∧
    (let s := fwd [0, 0, 0, 0]
     (s.cursor .a).filled ∧ (s.cursor .a).dir = selDir .a ∧ (s.cursor .a).reads s.source (bitsOfNat 0 0) ∧
     (s.cursor .a).reads s.source (bitsOfNat 24 0) ∧ (s.cursor .a).reads s.source (bitsOfNat 25 0) ∧
     (s.cursor .a).reads s.source (bitsOfNat 26 0)) := by decide

/-- DistanceCodes and LzTraditionalOffsets: the control bytes 0xEF, 0xF0 and 0xFF. -/
theorem test_witness_distances :
    (let s := fwd [0xFF, 0xFF, 0xC0, 0]
     (s.cursor .a).filled ∧ (s.cursor .a).dir = selDir .a ∧ (0xEF#8).toNat < 0xF0 ∧
     (s.cursor .a).reads s.source (bitsOfNat 18 0x3FFFF) ∧ (0xE#4) ≠ 0xF ∧ CSel.a = (if s.loc.idx % 2 = 0 then .a else .b)) ∧
    (let s : State := { bwd [0, 1, 0] with loc := { Locals.zero with idx := 1 } }
     (s.cursor .b).filled ∧ (s.cursor .b).dir = selDir .b ∧ 0xF0 ≤ (0xF0#8).toNat ∧
     (s.cursor .b).reads s.source (bitsOfNat 4 0 ++ bitsOf 1#12) ∧ CSel.b = (if s.loc.idx % 2 = 0 then .a else .b)) ∧
    (let s := fwd [0xFF, 0xFF, 0xFF, 0xFF]; (s.cursor .a).reads s.source (bitsOfNat 19 0x7FFFF ++ bitsOf 0xFFF#12)) := by decide

/-- LzScaledOffsets: 0 and 26 bits; LzBytes: the last side value, and none left. -/
theorem test_witness_scaled_offsets :
    (let s := fwd [0xFF, 0xFF, 0xFF, 0xC0]
     CSel.a = (if s.loc.idx % 2 = 0 then .a else .b) ∧ (s.cursor .a).filled ∧ (26#5).toNat ≤ 26 ∧
     (s.cursor .a).reads s.source (bitsOfNat 26 0x3FFFFFF) ∧ (s.cursor .a).reads s.source (bitsOfNat 0 0)) ∧
    (let s : State := { State.reset with loc := { Locals.zero with sideCount := 1 }, lt := { State.reset.lt with side := [9] } }
     s.loc.sideUsed < s.loc.sideCount ∧ s.lt.side[s.loc.sideUsed]? = some 9) ∧
    State.reset.loc.sideCount ≤ State.reset.loc.sideUsed := by decide

/-- CursorInitAndRefill: refills at `fill` 24, 0 and 25.  CursorFixedReads: 1 and 24 bits, and too many; the fill levels at which
`24 - fill` is the greatest `i32` and the least. -/
theorem test_witness_cursor_ops :
    (let s := fwd [1, 2, 3, 4]
     ((s.cursor .a).sound ∧ (s.cursor .a).dir = .fwd ∧ (s.cursor .a).fill ≤ 0) ∧
     (1 ≤ 24 ∧ 24 ≤ 24 ∧ (24 : Int) ≤ i32 (24 - (s.cursor .a).fill)) ∧
     ¬(1 ≤ 25 ∧ 25 ≤ 24 ∧ (25 : Int) ≤ i32 (24 - (s.cursor .a).fill))) ∧
    (let s : State := { fwd [1, 2, 3, 4] with a := (fwd [1, 2, 3, 4]).a.drop 24 }
     (s.cursor .a).sound ∧ (s.cursor .a).fill ≤ 24 ∧ 0 < (s.cursor .a).fill ∧ i32 (24 - (s.cursor .a).fill) < 1) ∧
    (let s : State := { fwd [1, 2, 3, 4] with a := (fwd [1, 2, 3, 4]).a.drop 25 }; 24 < (s.cursor .a).fill) ∧
    (let s (fill : BitVec 32) : State := { State.reset with a := { State.reset.a with fillLevel := fill } };
     -2147483623 ≤ ((s 0x80000019).cursor .a).fill ∧ (1 : Int) ≤ i32 (24 - ((s 0x80000019).cursor .a).fill) ∧
     ((s 0x80000018).cursor .a).fill < -2147483623 ∧ i32 (24 - ((s 0x80000018).cursor .a).fill) < 1) := by decide

/-- CursorGammaAndPosition, CursorDistance, CursorLengthAndWide: a filled cursor of each direction, at the bounds. -/
theorem test_witness_filled_cursors :
    (let v := (fwd [0, 0x20, 0, 0]).a
     v.filled ∧ v.dir = .fwd ∧ 2 * clz32 v.window + 2 < 24 ∧ ((2 * clz32 v.window + 2 : Nat) : Int) ≤ i32 (24 - v.fill)) ∧
    (let v := (fwd [0, 0x10, 0, 0]).a; ¬(2 * clz32 v.window + 2 < 24)) ∧
    (let v := (bwd [0, 8, 0]).b; v.filled ∧ v.dir = .bwd ∧ clz32 v.window ≤ 12) ∧
    (let v := (bwd [0, 4, 0]).b; v.filled ∧ 12 < clz32 v.window) ∧
    (0xEF#8).toNat < 0xF0 ∧ 0xF0 ≤ (0xF0#8).toNat ∧
    (let v : Cursor := { (fwd [0xFF]).a with window := 0x00800000, fillLevel := 20 }
     24 < ({ v with window := 0, fillLevel := v.fillLevel + BitVec.ofNat 32 (0xEF / 16 + 4) } : Cursor).fill ∧
     clz32 v.window ≤ 12 ∧ 24 < (v.drop (clz32 v.window)).fill ∧ i32 (24 - v.fill) < 5) := by decide

/-- BlockStart: at and off a multiple of 0x40000; an access that waits; a block that ends with the source, and one a byte longer. -/
theorem test_witness_block_start :
    (let s : State := { jobAt [] .blockStart Locals.zero with off := 0x40000 }
     s.direct = [] ∧ s.ctl = .blockStart ∧ s.host = [] ∧ s.off % 262144 = 0) ∧
    (let s : State := { jobAt [] .blockStart Locals.zero with host := [⟨1, .regRead 1⟩] }
     s.host = [⟨0 + 1, .regRead 1⟩] ∧ s.ctl = .blockStart ∧ State.reset.ctl = .idle) ∧
    (let s (n : Nat) : State := { jobAt (List.replicate n 7) .blockEntry Locals.zero with sh := { State.reset.sh with uncompressed := true } }
     (s 64).ctl = .blockEntry ∧ (s 64).loc.s + min 262144 (64 - 0) ≤ (s 64).srcLen ∧
     (s 63).srcLen < (s 63).loc.s + min 262144 (64 - 0)) ∧
    (jobAt [] .blockEntry Locals.zero).sh.uncompressed = false := by decide

/-- FillBlocks: up to DST_LEN, at distances 0, 1, `off` and `off + 1`; PayloadBlocks: each clause, one byte apart. -/
theorem test_witness_blocks :
    (let s (dist : Word) : State :=
       { jobAt [] .blockBody { Locals.zero with bs := 61 } with
         off := 3, bh := { State.reset.bh with kind := .fill, wholeMatchDistance := dist } }
     (s 0).direct = [] ∧ (s 0).bh.kind = .fill ∧ (s 0).off + (s 0).loc.bs ≤ (s 0).dstLen ∧
     (s 3).bh.wholeMatchDistance.toNat ≤ (s 3).off ∧ (s 4).off < (s 4).bh.wholeMatchDistance.toNat) ∧
    (let s (size : Word) (bs : Nat) : State :=
       { jobAt [9, 8, 7, 6] .blockBody { Locals.zero with bs := bs } with bh := { State.reset.bh with compressedSize := size } }
     (s 4 4).bh.kind ≠ .fill ∧ (s 5 5).srcLen < (s 5 5).loc.s + 5 ∧ (s 4 3).loc.s + 4 ≤ (s 4 3).srcLen ∧
     (s 4 4).off + 4 ≤ (s 4 4).dstLen ∧ (s 4 5).sh.family = .kraken) ∧
    ({ State.reset.sh with family := .mermaid } : StreamHeader).family ≠ .kraken := by decide

/-- BlockEnd and QuantumLoop: the last byte of the output; four bytes left, and three; the quantum used up, and not. -/
theorem test_witness_loops :
    (let s := jobAt [] .blockEnd { Locals.zero with bs := 64 }; s.direct = [] ∧ s.ctl = .blockEnd ∧ s.off + s.loc.bs = s.dstLen) ∧
    (let s (d p : Nat) := jobAt [] .quantumLoop { Locals.zero with bs := 8, d := d, p := p, e := 8 }
     (s 7 4).ctl = .quantumLoop ∧ (s 7 4).loc.d < (s 7 4).off + (s 7 4).loc.bs ∧ (s 7 4).loc.p + 4 ≤ (s 7 4).loc.e ∧
     (s 7 5).loc.e < (s 7 5).loc.p + 4 ∧ (s 8 0).off + (s 8 0).loc.bs ≤ (s 8 0).loc.d ∧
     (s 8 0).loc.p = (s 8 0).loc.s + (s 8 0).bh.compressedSize.toNat ∧
     (s 8 1).loc.p ≠ (s 8 1).loc.s + (s 8 1).bh.compressedSize.toNat) := by decide

/-- LzTableStart: modes 1 and 2, payloads of 12 and 13 bytes, `d` 0 and not, DST_LEN 8; the bit region's ends. -/
theorem test_witness_table_start :
    (let s (mode q d : Nat) : State :=
       { jobAt (List.replicate 13 7) .tableStart { Locals.zero with mode := mode, q := q, d := d } with
         regs := { State.reset.regs with status := 1, srcLen := 13, dstLen := 8 } }
     (s 1 13 0).direct = [] ∧ 1 < (s 2 13 0).loc.mode ∧ (s 1 12 0).loc.q < (s 1 12 0).loc.lp + 13 ∧
     (s 1 13 0).loc.lp + 13 ≤ (s 1 13 0).loc.q ∧ (s 1 13 0).loc.q ≤ (s 1 13 0).srcLen ∧ 8 ≤ (s 1 13 0).dstLen ∧
     (s 0 13 1).loc.d ≠ 0) ∧
    (let s := jobAt [1, 2] .unpackStart { Locals.zero with lp := 2, q := 2 }
     s.ctl = .unpackStart ∧ s.loc.lp ≤ s.loc.q ∧ s.loc.q ≤ s.srcLen) := by decide

/-- OffsetsDone: no scaling with 512 and 513 side values; the least `i32` and one below it. -/
theorem test_witness_offsets_done :
    (let s (n : Nat) := jobAt [] .offsets { Locals.zero with sideCount := n }
     (s 512).direct = [] ∧ (s 512).ctl = .offsets ∧ (s 512).lt.offsPacked.length ≤ (s 512).loc.idx ∧
     (s 512).lt.extra.getD [] = [] ∧ (s 512).lt.scaling ≤ 1 ∧ (s 512).loc.sideCount ≤ 512 ∧ 512 < (s 513).loc.sideCount) ∧
    (let s (x : Byte) : State := { jobAt [] .offsets Locals.zero with
       lt := { State.reset.lt with scaling := 2, offs := [0xC0000000], extra := some [x] } }
     (s 0).lt.offs.length = ((s 0).lt.extra.getD []).length ∧
     (2 : Int) * (0xC0000000#32).toInt - ((0#8).toNat : Int) = -2147483648 ∧
     (List.zipWith (fun o x => ((s 1).lt.scaling : Int) * o.toInt - (x.toNat : Int)) (s 1).lt.offs
       ((s 1).lt.extra.getD []))[0]? = some (-2147483649) ∧ 2 ≤ (s 1).lt.scaling) := by decide

/-- SideBuffer: each clause. -/
theorem test_witness_side_buffer :
    (let s : State := { jobAt [] .sideStore Locals.zero with resOk := true }; s.direct = [] ∧ s.ctl = .sideStore) ∧
    (jobAt [] .sideStore Locals.zero).resOk = false ∧
    (let s := jobAt [] .sideValues Locals.zero
     s.ctl = .sideValues ∧ s.loc.sideCount ≤ s.loc.idx ∧ ({ s with a := (fwd [1]).a, b := (fwd [1]).a } : State).a.consumedPos =
       (fwd [1]).a.consumedPos ∧ (fwd [1]).a.consumedPos ≠ (bwd [1]).b.consumedPos) ∧
    (let s (used : Nat) := jobAt [] .lengths { Locals.zero with sideUsed := used, sideCount := 1 }
     (s 1).ctl = .lengths ∧ (s 1).lt.lenPacked.length ≤ (s 1).loc.idx ∧ (s 1).loc.sideUsed = (s 1).loc.sideCount ∧
     (s 0).loc.sideUsed ≠ (s 0).loc.sideCount) := by decide

/-- CodeLengthsDone: 256 symbols of which two have codes; 255; one with a code; one symbol for a caller with a check. -/
theorem test_witness_code_lengths_done :
    (let s (sym n : Nat) : State := { jobAt [] .gammaFinish Locals.zero with tmp := { State.reset.tmp with sym := sym, numSymbols := n } }
     (s 256 2).direct = [] ∧ (s 256 2).ctl = .gammaFinish ∧ (s 256 2).tmp.sym = 256 ∧ 2 ≤ (s 256 2).tmp.numSymbols ∧
     (s 255 2).tmp.sym ≠ 256 ∧ (s 256 1).tmp.numSymbols < 2) ∧
    (let s : State := { jobAt [] .codesDone { Locals.zero with num := 1, dstSize := 2, cnt := 2, d := 62 } with
       ct := { State.reset.ct with syms := [(0, 0x41)] } }
     s.ctl = .codesDone ∧ s.loc.num = 1 ∧ Memory.read s.ct.syms 0 = some 0x41 ∧
     s.loc.dest = .entropy ∧ s.loc.dstSize = s.loc.cnt ∧ s.loc.d + s.loc.cnt ≤ s.dstLen) ∧
    (jobAt [] .codesDone Locals.zero).loc.num ≠ 1 := by decide

/-- CodeLengthsDone: an output its caller rejects; a table that is a complete prefix code, and one that is not. -/
theorem test_witness_huffman_output :
    (let s := jobAt [] .codesDone { Locals.zero with num := 1, dstSize := 2, cnt := 3 }
     s.rejects (List.replicate s.loc.dstSize 0x41) (s.loc.hdr + s.loc.srcSize)) ∧
    ({ syms := [(0, 0x41), (1, 0x42)], codePrefix := firstSlots.set 1 2 } : CodeTable).Complete ∧
    ¬({ syms := [(0, 0x41), (1, 0x41)], codePrefix := firstSlots.set 1 2 } : CodeTable).Complete ∧
    ¬({ syms := [(0, 0x41)], codePrefix := firstSlots.set 1 1 } : CodeTable).Complete := by
  refine ⟨(by decide : (2 : Nat) ≠ 3), ?_, ?_, ?_⟩ <;> unfold CodeTable.Complete <;> decide

/-- LzRuns: writes that the executor's contract allows, filling a first sub-chunk after its seed up to DST_LEN; a write too many. -/
theorem test_witness_lz_runs :
    let s : State := { jobAt [] .lzRuns { Locals.zero with cnt := 64 } with lt := { State.reset.lt with lit := [5] } }
    let ws : List Config.LzByte := .literal :: List.replicate 55 (.copy 7)
    s.direct = [] ∧ s.ctl = .lzRuns ∧ ws.length = s.loc.cnt - 8 ∧ 8 + ws.length ≤ s.dstLen ∧
    s.loc.cnt - 8 < (Config.LzByte.literal :: ws).length ∧ s.LzAllowed 8 ws := by
  refine ⟨rfl, rfl, by decide, by decide, by decide, by decide, fun j k h => ?_⟩
  cases j with
  | zero => simp at h
  | succ j =>
    have : k = 7 := by
      simp only [List.getElem?_cons_succ, List.getElem?_replicate] at h
      split at h
      · exact (by simpa using h : 7 = k).symm
      · cases h
    omega

end Sys2Proof.Tests
end

section
/-! The run count of the gamma path (R196).  The code `0^n 1 b` is the number `2^w + b` written with leading zeros, so what
the refilled window shows of it settles both the guard (R195, R196) and the value read (R128). -/

namespace Sys2Proof

/-! ### A code `0^n 1 b` as a number -/

theorem bitsOfNat_leadingZeros {m v : Nat} (h : v < 2 ^ m) (n : Nat) :
    bitsOfNat (n + m) v = List.replicate n false ++ bitsOfNat m v := by
  induction n with
  | zero => simp
  | succ n ih =>
    have hbit : v.testBit (n + m) = false :=
      Nat.testBit_lt_two_pow (Nat.lt_of_lt_of_le h (Nat.pow_le_pow_right (by omega) (by omega)))
    rw [Nat.add_right_comm, bitsOfNat, hbit, ih, List.replicate_succ, List.cons_append]

theorem bitsOfNat_topBit {w b : Nat} (h : b < 2 ^ w) : bitsOfNat (w + 1) (2 ^ w + b) = true :: bitsOfNat w b := by
  have htop : (2 ^ w + b).testBit w = true := by
    rw [Nat.testBit_two_pow_add_eq, Nat.testBit_lt_two_pow h]; rfl
  rw [bitsOfNat, htop]
  congr 1
  apply List.ext_getElem?
  intro i
  rw [bitsOfNat_getElem?, bitsOfNat_getElem?]
  split
  · rw [Nat.testBit_two_pow_add_gt (by omega)]
  · rfl

theorem zerosOneBits_eq_bitsOfNat {n w b : Nat} (hn : n < 32) (hb : b < 2 ^ w) :
    zerosOneBits n w b = bitsOfNat (n + (w + 1)) (2 ^ w + b) := by
  rw [zerosOneBits, if_pos hn, bitsOfNat_leadingZeros (by rw [Nat.pow_succ]; omega), bitsOfNat_topBit hb]

/-- A code with `k` zeros or more begins with the `k`-bit field 0. -/
theorem zerosOneBits_eq_append {k n : Nat} (hk : k ≤ n) (hk32 : k ≤ 32) (w b : Nat) :
    ∃ rest, zerosOneBits n w b = bitsOfNat k 0 ++ rest := by
  have hzero : bitsOfNat k 0 = List.replicate k false := by
    simpa [bitsOfNat] using bitsOfNat_leadingZeros (m := 0) (v := 0) (by simp) k
  have hsplit : ∀ m, k ≤ m → List.replicate m false = bitsOfNat k 0 ++ List.replicate (m - k) false := fun m hm => by
    rw [hzero, List.replicate_append_replicate, Nat.add_sub_cancel' hm]
  rw [zerosOneBits]
  split
  · exact ⟨_, by rw [hsplit n hk, List.append_assoc]⟩
  · exact ⟨_, hsplit 32 hk32⟩

namespace Machine

/-! ### The guard of R195 and R196 -/

/-- The guard's mask keeps the window's top byte. -/
theorem and_topByteMask_eq_zero_iff (v : Word) : v &&& 0xFF000000#32 = 0 ↔ v.toNat / 2 ^ 24 = 0 := by
  have hmask : v &&& 0xFF000000#32 = (v >>> 24) <<< 24 := by
    have hbits : ∀ i : Fin 32, (0xFF000000#32).getLsbD i = decide (24 ≤ i.val) := by decide
    apply BitVec.eq_of_getLsbD_eq
    intro i hi
    rw [BitVec.getLsbD_and, hbits ⟨i, hi⟩, BitVec.getLsbD_shiftLeft, BitVec.getLsbD_ushiftRight]
    by_cases h : 24 ≤ i
    · simp [h, hi, show ¬ i < 24 by omega]
    · simp [h, show i < 24 by omega]
  have hlt := v.isLt
  rw [hmask, ← BitVec.toNat_inj, BitVec.toNat_shiftLeft, BitVec.toNat_ushiftRight, Nat.shiftRight_eq_div_pow,
    Nat.shiftLeft_eq, Nat.mod_eq_of_lt (by omega), show BitVec.toNat (0 : Word) = 0 from rfl]
  omega

theorem gammaGuard_ok {s : State} (h : s.a.window.toNat / 2 ^ 24 ≠ 0) : gammaGuard params s = .ok () s := by
  have hne : (s.a.window &&& 0xFF000000#32 != 0) = true :=
    bne_iff_ne.2 fun h0 => h ((and_topByteMask_eq_zero_iff _).1 h0)
  simp only [gammaGuard, Eng.bind_run, getState_run, params_gammaGuard, hne, require_true]

theorem gammaGuard_raise {s : State} (h : s.a.window.toNat / 2 ^ 24 = 0) :
    gammaGuard params s = .error (.raise .e30) s := by
  have heq : (s.a.window &&& 0xFF000000#32 != 0) = false :=
    bne_eq_false_iff_eq.2 ((and_topByteMask_eq_zero_iff _).2 h)
  simp only [gammaGuard, Eng.bind_run, getState_run, params_gammaGuard, heq, require_false]

/-! ### A gamma code in a window that holds it whole -/

/-- R100, R128: a gamma code whose bits are all valid is read, and its bits are shifted out. -/
theorem Cursor.readGamma_ok {src : Source} {c : Cursor} {n b : Nat} (h : c.sound) (hn : n ≤ 10)
    (hv : 2 * n + 2 ≤ c.validBits) (hb : b < 2 ^ (n + 1)) (hr : c.reads src (zerosOneBits n (n + 1) b)) :
    c.readGamma = .ok (2 ^ (n + 1) + b - 2, c.drop (2 * n + 2)) := by
  have hclz : clz32 c.window = n := by
    refine Cursor.clz_window h (by omega) (rest := bitsOfNat (n + 1) b) (src := src) ?_
    rwa [zerosOneBits, if_pos (by omega)] at hr
  have hfield : c.window.toNat / 2 ^ (32 - (2 * n + 2)) = 2 ^ (n + 1) + b := by
    refine Cursor.window_top h (rest := []) (src := src) hv ?_ ?_
    · calc 2 ^ (n + 1) + b < 2 ^ (n + 2) := by rw [Nat.pow_succ 2 (n + 1)]; omega
        _ ≤ 2 ^ (2 * n + 2) := Nat.pow_le_pow_right (by omega) (by omega)
    · rwa [zerosOneBits_eq_bitsOfNat (by omega) hb, show n + (n + 1 + 1) = 2 * n + 2 by omega,
        ← List.append_nil (bitsOfNat _ _)] at hr
  have hbits : c.readBits (2 * n + 2) = .ok (c.window >>> (32 - (2 * n + 2)), c.drop (2 * n + 2)) := by
    have hroom : ((2 * n + 2 : Nat) : Int) ≤ c.room := by unfold Cursor.validBits at hv; omega
    rw [Cursor.readBits, if_pos ⟨by omega, by omega, hroom⟩]
  rw [Cursor.readGamma, params_leadingZeros, params_gammaWidth, hclz, if_pos (by omega), hbits]
  simp only [bind, Except.bind, pure, Except.pure, BitVec.toNat_ushiftRight, Nat.shiftRight_eq_div_pow, hfield]

/-- A window that holds a code with at most 7 zeros passes the guard. -/
theorem Cursor.topByte_ne_zero {src : Source} {c : Cursor} {n w b : Nat} (h : c.sound) (hn : n ≤ 7)
    (hv : 8 ≤ c.validBits) (hr : c.reads src (zerosOneBits n w b)) : c.window.toNat / 2 ^ 24 ≠ 0 := by
  rw [zerosOneBits, if_pos (by omega)] at hr
  have hbit := Cursor.window_bits h hr (i := n) (by omega) (by simp)
  have hone : c.window.toNat.testBit (31 - n) = true := by simpa [BitVec.getLsbD] using hbit
  have hge : 2 ^ (31 - n) ≤ c.window.toNat := Nat.ge_two_pow_of_testBit hone
  have hpow : 2 ^ 24 ≤ 2 ^ (31 - n) := Nat.pow_le_pow_right (by omega) (by omega)
  omega

/-- A window that shows 8 zeros or more does not pass the guard. -/
theorem Cursor.topByte_eq_zero {src : Source} {c : Cursor} {n w b : Nat} (h : c.sound) (hn : 8 ≤ n)
    (hv : 8 ≤ c.validBits) (hr : c.reads src (zerosOneBits n w b)) : c.window.toNat / 2 ^ 24 = 0 := by
  obtain ⟨rest, hrest⟩ := zerosOneBits_eq_append hn (by omega) w b
  rw [hrest] at hr
  exact Cursor.window_top h (n := 8) hv (by simp) hr

/-! ### Cursor A refilled forward -/

/-- R123: a forward refill of cursor A consumes no bit and does not move back. -/
theorem refillForward_spec {s : State} (h : s.a.sound) (hd : s.a.dir = .fwd) :
    ∃ v, refillCursor .a .fwd params s = .ok () (s.setA v) ∧ s.a.AdvancedFull s.source 0 v ∧ s.a.pos ≤ v.pos := by
  have hle : s.a.fill ≤ 24 := h.2.1
  obtain ⟨hadv, -, hpos, -⟩ := Cursor.fillLoop_spec (src := s.source) 3 h (by omega)
  rw [hd] at hadv hpos
  exact ⟨_, refillCursor_ok hle, hadv, hpos rfl⟩

theorem Cursor.AdvancedFull.validBits {src : Source} {n : Nat} {c v : Cursor} (h : c.AdvancedFull src n v) :
    24 ≤ v.validBits := by
  obtain ⟨hadv, hfill⟩ := h
  rw [Cursor.sound_validBits hadv.1]
  omega

/-- A cursor that has consumed no bit reads what it read before. -/
theorem Cursor.Advanced.reads {src : Source} {c v : Cursor} {bits : Bits} (h : c.Advanced src 0 v)
    (hr : c.reads src bits) : v.reads src bits :=
  Cursor.reads_advanced (x := []) hr h

/-! ### The run count (R196) -/

section RunCount

variable {s : State} {c v w : Cursor} {r : Nat}

theorem runCount_guardFails (hrefill : refillCursor .a .fwd params s = .ok () (s.setA v))
    (hguard : v.window.toNat / 2 ^ 24 = 0) : runCount params s = .error (.raise .e30) (s.setA v) := by
  rw [runCount, Eng.bind_ok hrefill, Eng.bind_error (gammaGuard_raise hguard)]

theorem runCount_tooLong (hrefill : refillCursor .a .fwd params s = .ok () (s.setA v))
    (hguard : v.window.toNat / 2 ^ 24 ≠ 0) (hread : v.readGamma = .ok (r, c)) (hlong : 256 < s.tmp.sym + (r + 1)) :
    runCount params s = .error (.raise .e31) (s.setA c) := by
  have hcode : onCursor .a (fun _ c => c.readGamma) (s.setA v) = .ok r (s.setA c) := onCursor_ok hread
  rw [runCount, Eng.bind_ok hrefill, Eng.bind_ok (gammaGuard_ok hguard), Eng.bind_ok hcode]
  have hnot : ¬ s.tmp.sym + (r + 1) ≤ 256 := by omega
  simp only [Eng.bind_run, params_runLength, getState_run, State.setA_tmp, hnot, decide_false, require_false]

theorem runCount_ok (hrefill : refillCursor .a .fwd params s = .ok () (s.setA v))
    (hguard : v.window.toNat / 2 ^ 24 ≠ 0) (hread : v.readGamma = .ok (r, c)) (hfits : s.tmp.sym + (r + 1) ≤ 256)
    (hagain : refillCursor .a .fwd params (s.setA c) = .ok () (s.setA w)) :
    runCount params s = .ok ()
      { s with a := w, tmp := { s.tmp with numSymbols := s.tmp.numSymbols + (r + 1) },
               loc := { s.loc with runLeft := r + 1 }, ctl := .gammaResidual } := by
  have hcode : onCursor .a (fun _ c => c.readGamma) (s.setA v) = .ok r (s.setA c) := onCursor_ok hread
  rw [runCount, Eng.bind_ok hrefill, Eng.bind_ok (gammaGuard_ok hguard), Eng.bind_ok hcode]
  simp only [Eng.bind_run, params_runLength, getState_run, State.setA_tmp, hfits, decide_true, require_true, hagain,
    update_run, updateLoc_run, params_gammaAfterCount, goto_run]
  rfl

end RunCount

/-- An instruction that stands at cursor A is the run count's computation. -/
theorem exec_gammaRunCount {s : State} {n b : Nat} (hr : s.a.reads s.source (zerosOneBits n (n + 1) b)) :
    exec (.gammaRunCount n b) s = settle (runCount params) s := by
  have hat : atCursor .a (.gammaRunCount n b) params s = .ok () s := atCursor_ok rfl hr
  show settle (atCursor .a (.gammaRunCount n b) params >>= fun _ => runCount params) s = _
  simp only [settle, Eng.bind_ok hat]

/-- A gamma code of at most 7 zeros at a refilled cursor: it passes the guard, and the code's bits are consumed. -/
theorem gammaCode_at_refilled {src : Source} {c v : Cursor} {n b : Nat} (hv : c.AdvancedFull src 0 v)
    (hn : n ≤ 7) (hb : b < 2 ^ (n + 1)) (hr : c.reads src (zerosOneBits n (n + 1) b)) :
    v.window.toNat / 2 ^ 24 ≠ 0 ∧ v.readGamma = .ok (2 ^ (n + 1) + b - 2, v.drop (2 * n + 2)) ∧
    c.Advanced src (2 * n + 2) (v.drop (2 * n + 2)) := by
  have h24 := hv.validBits
  obtain ⟨hadv, -⟩ := hv
  have hrv := hadv.reads hr
  refine ⟨Cursor.topByte_ne_zero hadv.1 hn (by omega) hrv,
    Cursor.readGamma_ok hadv.1 (by omega) (by omega) hb hrv, ?_⟩
  simpa using hadv.trans (Cursor.advanced_drop hadv.1 (n := 2 * n + 2) (by omega)) (by simp)

/-- Settles O36: the refilled window shows the code, whose zeros settle the guard and whose value the count. -/
theorem gammaRunCount : Obligations.GammaRunCount := by
  intro s n b hsound hdir hwf hreads run
  have hb : n ≤ 7 → b < 2 ^ (n + 1) := fun hn => by simpa [wfCode, show n < 32 by omega, show n ≠ 32 by omega] using hwf
  obtain ⟨v, hrefill, hfull, hpos⟩ := refillForward_spec hsound hdir
  rw [exec_gammaRunCount hreads]
  refine ⟨fun hn hfits => ?_, fun hn hlong => ?_, fun hn => ?_⟩
  · obtain ⟨hguard, hread, hadv⟩ := gammaCode_at_refilled hfull hn (hb hn) hreads
    obtain ⟨w, hagain, ⟨hadv', hfill⟩, hpos'⟩ :=
      refillForward_spec (s := s.setA (v.drop (2 * n + 2))) hadv.1 (hadv.2.2.2.1.trans hdir)
    refine ⟨_, settle_ok (runCount_ok hrefill hguard hread hfits hagain), rfl, ?_, hfill⟩
    exact hadv.trans hadv' (by simp only [State.setA_a, Cursor.drop_pos] at hpos' ⊢; omega)
  · obtain ⟨hguard, hread, hadv⟩ := gammaCode_at_refilled hfull hn (hb hn) hreads
    exact ⟨_, _, hadv, settle_raise (runCount_tooLong hrefill hguard hread hlong), takeFault_spec .e31 _ (by decide)⟩
  · have h24 := hfull.validBits
    have hzero := Cursor.topByte_eq_zero hfull.1.1 hn (by omega) (hfull.1.reads hreads)
    exact ⟨v, _, hfull, settle_raise (runCount_guardFails hrefill hzero), takeFault_spec .e30 _ (by decide)⟩

end Machine
end Sys2Proof
end

section
/-! The elements whose meaning is a fault.  Those of R106 raise their cause and do nothing else; the early stop (R276) and
the chunk types that the engine does not decode (R241) reach theirs through checks that leave the state as it was. -/

namespace Sys2Proof.Machine

/-- R341: an instruction whose computation raises a cause, having changed nothing before, takes that cause's fault. -/
theorem faults_of_raise {c : Cause} {i : Instr} {m : Eng Unit} {s : State} (hexec : exec i s = settle m s)
    (hraise : m s = .error (.raise c) s) (hc : c ≠ .e47) : Faults c.cls.number c.number i s :=
  ⟨takeFault c s, hexec.trans (settle_raise hraise), takeFault_spec c s hc⟩

/-- R106, R341: an instruction that raises its cause at once takes that cause's fault. -/
theorem faults_of_exec_eq_raise {c : Cause} {i : Instr} {s : State} (hexec : exec i s = settle (raise c) s)
    (hc : c ≠ .e47) : Faults c.cls.number c.number i s :=
  faults_of_raise hexec (raise_run c s) hc

/-- R276: a scaled offset of 27 bits or more stops before its cursor is read. -/
theorem scaledOffsetOp_earlyStop {k : Nat} (hk : 27 ≤ k) (l : BitVec 3) (s : State) :
    scaledOffsetOp k l params s = .error (.raise .e52) s := by
  have hstop : require (decide (k ≤ 26)) .e52 s = .error (.raise .e52) s := by
    rw [decide_eq_false (by omega), require_false]
  rw [scaledOffsetOp, Eng.bind_error hstop]

/-- Settles O19: each row raises its cause at once, the early stop at the check of its width. -/
theorem illegalRowsFault : Obligations.IllegalRowsFault := by
  intro s
  refine ⟨fun x m y => ?badMagic, fun x r y => ?badReserved, fun r u c f => ?badFamily, ?truncated,
    fun e => ?badSentinel, ?badControl, fun r z => ?badCopy, fun l x => ?type6, fun l x => ?type7, fun x => ?badFlag,
    fun k l hk => ?earlyStop⟩
  case badMagic => exact faults_of_exec_eq_raise (c := .e01) rfl (by decide)
  case badReserved => exact faults_of_exec_eq_raise (c := .e02) rfl (by decide)
  case badFamily => exact faults_of_exec_eq_raise (c := .e03) rfl (by decide)
  case truncated => exact faults_of_exec_eq_raise (c := .e04) rfl (by decide)
  case badSentinel => exact faults_of_exec_eq_raise (c := .e05) rfl (by decide)
  case badControl => exact faults_of_exec_eq_raise (c := .e06) rfl (by decide)
  case badCopy => exact faults_of_exec_eq_raise (c := .e21) rfl (by decide)
  case type6 => exact faults_of_exec_eq_raise (c := .e26) rfl (by decide)
  case type7 => exact faults_of_exec_eq_raise (c := .e26) rfl (by decide)
  case badFlag => exact faults_of_exec_eq_raise (c := .e42) rfl (by decide)
  case earlyStop => exact faults_of_raise (c := .e52) rfl (scaledOffsetOp_earlyStop hk l s) (by decide)

/-! ### Chunk types 1, 3 and 5 (R241) -/

/-- R237: the long layout's check passes. -/
theorem longSizes_ok {srcSize dstSize : Nat} (h : srcSize < dstSize) (s : State) :
    longSizes srcSize dstSize params s = .ok () s := by
  rw [longSizes, params_longSizesOk, decide_eq_true h, require_true]

/-- R241: the chunk faults where its payload checks pass. -/
theorem unsupportedChunk_raise {s : State} {hdr srcSize dstSize : Nat} (h : s.payloadFits hdr srcSize dstSize) :
    unsupportedChunk hdr srcSize dstSize s = .error (.raise .e27) s := by
  rw [unsupportedChunk, Eng.bind_ok (checkPayload_ok h), raise_run]

theorem unsupportedChunk_long_raise {s : State} {hdr srcSize dstSize : Nat} (hlt : srcSize < dstSize)
    (hfits : s.payloadFits hdr srcSize dstSize) :
    (do longSizes srcSize dstSize; unsupportedChunk hdr srcSize dstSize) s = .error (.raise .e27) s := by
  rw [Eng.bind_ok (longSizes_ok hlt s), unsupportedChunk_raise hfits]

/-- Settles O29: the three types run one computation in each layout, whose checks pass and leave the state as it was. -/
theorem unsupportedChunks : Obligations.UnsupportedChunks := by
  intro s
  refine ⟨fun d z hfits => ?short, fun d z hlt hfits => ?long⟩
  case short =>
    have taken : ∀ i, exec i s = settle (unsupportedChunk 3 z.toNat (z.toNat + d.toNat + 1)) s → Faults 4 27 i s :=
      fun i hexec => faults_of_raise hexec (unsupportedChunk_raise hfits) (by decide)
    exact ⟨taken _ rfl, taken _ rfl, taken _ rfl⟩
  case long =>
    have taken : ∀ i, exec i s = settle (do longSizes z.toNat (d.toNat + 1); unsupportedChunk 5 z.toNat (d.toNat + 1)) s →
        Faults 4 27 i s := fun i hexec => faults_of_raise hexec (unsupportedChunk_long_raise hlt hfits) (by decide)
    exact ⟨taken _ rfl, taken _ rfl, taken _ rfl⟩

end Sys2Proof.Machine
end

section
/-! The LZ table's side count (R274), traditional offsets (R275) and side buffer (R284, R285, R287).  The first two shift a
cursor twice with a refill after each shift, so that pair is taken once for both. -/

namespace Sys2Proof.Machine

/-! ### Two shifts, each refilled -/

theorem Cursor.filled_validBits {c : Cursor} (h : c.filled) : 24 ≤ c.validBits := by
  obtain ⟨hsound, hfill⟩ := h
  rw [Cursor.sound_validBits hsound]
  omega

/-- A refill moves the position one way only, so the bits of two shifts add up. -/
theorem Cursor.drop_refill_twice {src : Source} {c : Cursor} {m n : Nat} (h : c.sound) (hm : m ≤ c.validBits)
    (hn : n ≤ 24) :
    ∃ w v, (c.drop m).refillDir c.dir src = .ok w ∧ c.AdvancedFull src m w ∧
      (w.drop n).refillDir c.dir src = .ok v ∧ c.AdvancedFull src (m + n) v := by
  obtain ⟨hw, hfull⟩ := Cursor.drop_refill_spec (src := src) h hm
  have hsound := Cursor.sound_drop h hm
  obtain ⟨-, hdir, hfwd, hbwd⟩ := Cursor.fillLoop_spec (src := src) 3 hsound (by have := hsound.2.1; omega)
  simp only [Cursor.drop_dir, Cursor.drop_pos] at hdir hfwd hbwd
  generalize (c.drop m).fillLoop c.dir src 3 = w at hw hfull hdir hfwd hbwd
  have hn' : n ≤ w.validBits := Nat.le_trans hn hfull.validBits
  obtain ⟨hv, hfull'⟩ := Cursor.drop_refill_spec (src := src) hfull.1.1 hn'
  have hsound' := Cursor.sound_drop hfull.1.1 hn'
  obtain ⟨-, -, hfwd', hbwd'⟩ := Cursor.fillLoop_spec (src := src) 3 hsound' (by have := hsound'.2.1; omega)
  simp only [Cursor.drop_dir, Cursor.drop_pos, hdir] at hv hfull' hfwd' hbwd'
  refine ⟨w, _, hw, hfull, hv, hfull.1.trans hfull'.1 ?_, hfull'.2⟩
  cases hd : c.dir
  case fwd =>
    have hfirst := hfwd hd
    have hsecond := hfwd' hd
    rw [hd] at hsecond
    omega
  case bwd =>
    have hfirst := hbwd hd
    have hsecond := hbwd' hd
    rw [hd] at hsecond
    omega

/-! ### The side count (R274) -/

/-- A code's leading one, among the valid bits, bounds the window from below. -/
theorem Cursor.window_ge_of_zerosOne {src : Source} {c : Cursor} {n w b : Nat} (h : c.sound) (hn : n < 32)
    (hv : n < c.validBits) (hr : c.reads src (zerosOneBits n w b)) : 2 ^ (31 - n) ≤ c.window.toNat := by
  rw [zerosOneBits, if_pos hn] at hr
  have hbit := Cursor.window_bits h hr hv (by simp)
  exact Nat.ge_two_pow_of_testBit (by simpa [BitVec.getLsbD] using hbit)

/-- The field of a code is the number that its bits write, its leading one included. -/
theorem Cursor.readSideCount_ok {src : Source} {c : Cursor} {n b : Nat} (h : c.filled) (hn : n ≤ 18) (hb : b < 2 ^ n)
    (hr : c.reads src (zerosOneBits n n b)) :
    ∃ v, c.readSideCount c.dir src = .ok (BitVec.ofNat 32 (2 ^ n + b - 1), v) ∧ c.AdvancedFull src (2 * n + 1) v := by
  have h24 := Cursor.filled_validBits h
  rw [zerosOneBits, if_pos (by omega)] at hr
  have hclz : clz32 c.window = n := Cursor.clz_window h.1 (by omega) hr
  obtain ⟨w, v, hw, hfull, hv, hfull'⟩ :=
    Cursor.drop_refill_twice (src := src) h.1 (m := n) (n := n + 1) (by omega) (by omega)
  have hfield : w.window.toNat / 2 ^ (32 - (n + 1)) = 2 ^ n + b := by
    have hr' := Cursor.reads_advanced hr (by simpa using hfull.1)
    rw [← bitsOfNat_topBit hb, ← List.append_nil (bitsOfNat _ _)] at hr'
    exact Cursor.window_top hfull.1.1 (by have := hfull.validBits; omega) (by rw [Nat.pow_succ]; omega) hr'
  have hcount : w.window >>> (32 - (n + 1)) - 1 = BitVec.ofNat 32 (2 ^ n + b - 1) := by
    have hpos := Nat.two_pow_pos n
    have hle : 2 ^ n ≤ 2 ^ 18 := Nat.pow_le_pow_right (by omega) hn
    apply BitVec.eq_of_toNat_eq
    rw [BitVec.toNat_sub, BitVec.toNat_ushiftRight, Nat.shiftRight_eq_div_pow, hfield, BitVec.toNat_ofNat,
      show BitVec.toNat (1 : Word) = 1 from rfl]
    omega
  refine ⟨v, ?_, by rwa [show 2 * n + 1 = n + (n + 1) by omega]⟩
  simp only [Cursor.readSideCount, params_leadingZeros, hclz, params_sideCountExtra, params_sideCountBias, hw, hv, hcount,
    bind, Except.bind, pure, Except.pure]

theorem sideCount_ok {s : State} {count : Word} {v : Cursor} (hlegal : 0x2000 ≤ s.b.window.toNat)
    (hread : s.b.readSideCount .bwd s.source = .ok (count, v)) :
    sideCount params s = .ok ()
      { s with b := v, loc := { s.loc with sideCount := count.toNat, idx := 0 }, ctl := .offsets } := by
  have hcode : onCursor .b (fun src c => c.readSideCount (selDir .b) src) s = .ok count (s.setB v) := onCursor_ok hread
  simp only [sideCount, Eng.bind_run, getState_run, params_sideCountCursor, params_sideCountLegal, State.cursor_b,
    decide_eq_true hlegal, require_true, hcode, updateLoc_run, params_sideCountFirst, if_true, goto_run]
  rfl

theorem sideCount_illegal {s : State} (h : s.b.window.toNat < 0x2000) :
    sideCount params s = .error (.raise .e45) s := by
  simp only [sideCount, Eng.bind_run, getState_run, params_sideCountCursor, params_sideCountLegal, State.cursor_b,
    decide_eq_false (Nat.not_le.2 h), require_false]

theorem exec_sideCountCode {s : State} {n b : Nat} (hr : s.b.reads s.source (zerosOneBits n n b)) :
    exec (.sideCountCode n b) s = settle (sideCount params) s := by
  have hat : atCursor .b (.sideCountCode n b) params s = .ok () s := atCursor_ok rfl hr
  show settle (atCursor .b (.sideCountCode n b) params >>= fun _ => sideCount params) s = _
  simp only [settle, Eng.bind_ok hat]

/-- Settles O41: the window's bound of R274 separates 18 zeros from 19, and up to 18 the code is read whole. -/
theorem SideCountCode.sideCount : Obligations.SideCount := by
  intro s n b hfilled hdir hwf hreads
  have h24 := Cursor.filled_validBits hfilled
  refine ⟨fun hn => ?_, fun hn => ?_⟩
  · have hb : b < 2 ^ n := by simpa [wfCode, show n < 32 by omega, show n ≠ 32 by omega] using hwf
    have hlegal : 0x2000 ≤ s.b.window.toNat :=
      calc 2 ^ 13 ≤ 2 ^ (31 - n) := Nat.pow_le_pow_right (by omega) (by omega)
        _ ≤ _ := Cursor.window_ge_of_zerosOne hfilled.1 (by omega) (by omega) hreads
    have hle : 2 ^ n ≤ 2 ^ 18 := Nat.pow_le_pow_right (by omega) hn
    obtain ⟨v, hread, hfull⟩ := Cursor.readSideCount_ok hfilled hn hb hreads
    rw [hdir] at hread
    refine ⟨_, (exec_sideCountCode hreads).trans (settle_ok (sideCount_ok hlegal hread)), ?_, hfull⟩
    rw [BitVec.toNat_ofNat, Nat.mod_eq_of_lt (by omega)]
  · obtain ⟨rest, hrest⟩ := zerosOneBits_eq_append hn (by omega) n b
    have hzero := Cursor.window_top hfilled.1 (n := 19) (x := 0) (by omega) (by simp) (hrest ▸ hreads)
    exact faults_of_raise (exec_sideCountCode hreads) (sideCount_illegal (by omega)) (by decide)

/-! ### A distance (R129, R130) -/

/-- The one that the rotate brings in stands above the window's top bits. -/
theorem rotl32_or_one_getLsbD {v : Word} {n i : Nat} (hn : 1 ≤ n) (hn' : n ≤ 31) (hi : i < 32) :
    (rotl32 (v ||| 1) n).getLsbD i =
      if i < n then v.getLsbD (32 - n + i) else if i = n then true else v.getLsbD (i - n) := by
  have hone : ∀ j, (1 : Word).getLsbD j = decide (j = 0) := fun j => by
    cases j <;> simp
  rw [rotl32, BitVec.getLsbD_or, BitVec.getLsbD_shiftLeft, BitVec.getLsbD_ushiftRight, BitVec.getLsbD_or,
    BitVec.getLsbD_or, hone, hone]
  have hne : 32 - n ≠ 0 := by omega
  by_cases hin : i < n
  · simp [hin, hne]
  · have hout : v.getLsbD (32 - n + i) = false := BitVec.getLsbD_of_ge _ _ (by omega)
    by_cases heq : i = n
    · simp [heq, show n < 32 by omega]
    · simp [hin, heq, hi, hout, hne, show i - n ≠ 0 by omega]

theorem testBit_two_pow_add {n q : Nat} (hq : q < 2 ^ n) (i : Nat) :
    (2 ^ n + q).testBit i = if i < n then q.testBit i else decide (i = n) := by
  split
  · exact Nat.testBit_two_pow_add_gt (by assumption) q
  · by_cases heq : i = n
    · subst heq
      rw [Nat.testBit_two_pow_add_eq, Nat.testBit_lt_two_pow hq]
      simp
    · rw [Nat.testBit_lt_two_pow, decide_eq_false heq]
      calc 2 ^ n + q < 2 ^ (n + 1) := by rw [Nat.pow_succ]; omega
        _ ≤ 2 ^ i := Nat.pow_le_pow_right (by omega) (by omega)

/-- R129: the rotate and the masks part the window's top bits, under a leading one, from the window shifted left. -/
theorem Cursor.distanceHead_eq {c : Cursor} {n : Nat} (hlow : c.window.getLsbD 0 = false) (hn : 1 ≤ n) (hn' : n ≤ 31) :
    c.distanceHead n = (BitVec.ofNat 32 (2 ^ n + c.window.toNat / 2 ^ (32 - n)), c.drop n) := by
  have hmask : ∀ i < 32, (BitVec.ofNat 32 (2 ^ (n + 1) - 1)).getLsbD i = decide (i < n + 1) := fun i hi => by
    rw [BitVec.getLsbD_ofNat, Nat.testBit_two_pow_sub_one, decide_eq_true hi, Bool.true_and]
  have hq : c.window.toNat / 2 ^ (32 - n) < 2 ^ n := by
    rw [Nat.div_lt_iff_lt_mul (Nat.two_pow_pos _), ← Nat.pow_add, show n + (32 - n) = 32 by omega]
    exact c.window.isLt
  have hfield : rotl32 (c.window ||| 1) n &&& BitVec.ofNat 32 (2 ^ (n + 1) - 1) =
      BitVec.ofNat 32 (2 ^ n + c.window.toNat / 2 ^ (32 - n)) := by
    apply BitVec.eq_of_getLsbD_eq
    intro i hi
    rw [BitVec.getLsbD_and, rotl32_or_one_getLsbD hn hn' hi, hmask i hi, BitVec.getLsbD_ofNat,
      testBit_two_pow_add hq, Nat.testBit_div_two_pow, decide_eq_true hi, Bool.true_and]
    by_cases hin : i < n
    · simp [hin, show i < n + 1 by omega, BitVec.getLsbD, Nat.add_comm]
    · by_cases heq : i = n
      · simp [heq]
      · simp [hin, heq, show ¬ i < n + 1 by omega]
  have hrest : rotl32 (c.window ||| 1) n &&& ~~~BitVec.ofNat 32 (2 ^ (n + 1) - 1) = c.window <<< n := by
    apply BitVec.eq_of_getLsbD_eq
    intro i hi
    rw [BitVec.getLsbD_and, rotl32_or_one_getLsbD hn hn' hi, BitVec.getLsbD_not, hmask i hi,
      BitVec.getLsbD_shiftLeft]
    by_cases hin : i < n
    · simp [hin, show i < n + 1 by omega]
    · by_cases heq : i = n
      · simpa [heq] using fun _ => hlow
      · simp [hin, heq, hi, show ¬ i < n + 1 by omega]
  simp only [Cursor.distanceHead, params_rotateLeft, params_distanceMask, hfield, hrest, Cursor.drop]

theorem Cursor.sound_lowBit {c : Cursor} (h : c.sound) : c.window.getLsbD 0 = false := by
  refine Cursor.sound_low h ?_
  have := h.1
  rw [Cursor.sound_validBits h]
  omega

/-- R101, R129: a small distance. -/
theorem Cursor.readDistance_small {src : Source} {c : Cursor} {cb : Byte} {n x : Nat} (h : c.filled)
    (hcb : cb.toNat < 0xF0) (hn : n = cb.toNat / 16 + 4) (hx : x < 2 ^ n) (hr : c.reads src (bitsOfNat n x)) :
    ∃ v, c.readDistance c.dir src cb = .ok (BitVec.ofNat 32 ((2 ^ n + x) * 16 + cb.toNat % 16 - 248), v) ∧
      c.AdvancedFull src n v := by
  have h24 := Cursor.filled_validBits h
  obtain ⟨hrefill, hfull⟩ := Cursor.drop_refill_spec (src := src) h.1 (n := n) (by omega)
  have htop : c.window.toNat / 2 ^ (32 - n) = x :=
    Cursor.window_top h.1 (rest := []) (by omega) hx (by rwa [List.append_nil])
  have hhead := Cursor.distanceHead_eq (Cursor.sound_lowBit h.1) (n := n) (by omega) (by omega)
  have hbits : distanceBits cb = n := by rw [distanceBits, if_pos hcb, hn]
  have hvalue : params.distanceSmall (BitVec.ofNat 32 (2 ^ n + x)) cb =
      BitVec.ofNat 32 ((2 ^ n + x) * 16 + cb.toNat % 16 - 248) := by
    have hge : 2 ^ 4 ≤ 2 ^ n := Nat.pow_le_pow_right (by omega) (by omega)
    have hle : 2 ^ n ≤ 2 ^ 18 := Nat.pow_le_pow_right (by omega) (by omega)
    apply BitVec.eq_of_toNat_eq
    have hand : cb.toNat &&& 15 = cb.toNat % 16 := Nat.and_two_pow_sub_one_eq_mod cb.toNat 4
    rw [params_distanceSmall, BitVec.toNat_sub, BitVec.toNat_add, BitVec.toNat_shiftLeft, BitVec.toNat_setWidth,
      BitVec.toNat_and, show BitVec.toNat (15#8) = 15 from rfl, hand, Nat.shiftLeft_eq, BitVec.toNat_ofNat,
      BitVec.toNat_ofNat, show BitVec.toNat (248 : Word) = 248 from rfl]
    omega
  refine ⟨_, ?_, hfull⟩
  simp only [Cursor.readDistance, hbits, hhead, htop, if_pos hcb, hvalue, params_distanceRefills, if_true,
    hrefill, bind, Except.bind, pure, Except.pure]

/-- R102, R129: a large distance. -/
theorem Cursor.readDistance_large {src : Source} {c : Cursor} {cb : Byte} {n x : Nat} {y : BitVec 12} (h : c.filled)
    (hcb : 0xF0 ≤ cb.toNat) (hn : n = cb.toNat - 0xF0 + 4) (hx : x < 2 ^ n)
    (hr : c.reads src (bitsOfNat n x ++ bitsOf y)) :
    ∃ v, c.readDistance c.dir src cb = .ok (BitVec.ofNat 32 (8322816 + (2 ^ n + x) * 4096 + y.toNat), v) ∧
      c.AdvancedFull src (n + 12) v := by
  have h24 := Cursor.filled_validBits h
  have hlt := cb.isLt
  obtain ⟨w, v, hw, hfull, hv, hfull'⟩ :=
    Cursor.drop_refill_twice (src := src) h.1 (m := n) (n := 12) (by omega) (by omega)
  have htop : c.window.toNat / 2 ^ (32 - n) = x := Cursor.window_top h.1 (by omega) hx hr
  have hlow : w.window.toNat / 2 ^ (32 - 12) = y.toNat := by
    refine Cursor.window_top hfull.1.1 (src := src) (rest := []) (by have := hfull.validBits; omega) y.isLt ?_
    rw [List.append_nil]
    exact Cursor.reads_advanced hr (by simpa using hfull.1)
  have hhead := Cursor.distanceHead_eq (Cursor.sound_lowBit h.1) (n := n) (by omega) (by omega)
  have hbits : distanceBits cb = n := by rw [distanceBits, if_neg (by omega), hn]
  have hvalue : params.distanceLarge (BitVec.ofNat 32 (2 ^ n + x)) (w.window >>> 20) =
      BitVec.ofNat 32 (8322816 + (2 ^ n + x) * 4096 + y.toNat) := by
    apply BitVec.eq_of_toNat_eq
    rw [params_distanceLarge, BitVec.toNat_add, BitVec.toNat_add, BitVec.toNat_shiftLeft, BitVec.toNat_ushiftRight,
      Nat.shiftRight_eq_div_pow, hlow, Nat.shiftLeft_eq, BitVec.toNat_ofNat, BitVec.toNat_ofNat,
      show BitVec.toNat ((8322816 : Nat) : Word) = 8322816 from rfl]
    omega
  refine ⟨v, ?_, hfull'⟩
  simp only [Cursor.readDistance, hbits, hhead, htop, if_neg (Nat.not_lt.2 hcb), hw,
    hvalue, params_distanceRefills, if_true, hv, bind, Except.bind, pure, Except.pure]

/-! ### A traditional offset (R275) -/

/-- R275: offset `i` from register `c`, left with `v`, is the distance `d` negated. -/
def State.offsetPushed (s : State) (c : CSel) (v : Cursor) (d : Word) : State :=
  { s.setCursor c v with lt := { s.lt with offs := s.lt.offs ++ [-d] }, loc := { s.loc with idx := s.loc.idx + 1 } }

theorem tradOffset_ok {s : State} {c : CSel} {cb : Byte} {d : Word} {v : Cursor} (hc : selOf s.loc.idx = c)
    (hread : (s.cursor c).readDistance (selDir c) s.source cb = .ok (d, v)) :
    tradOffset cb params s = .ok () (s.offsetPushed c v d) := by
  have hcode : onCursor c (fun src v => v.readDistance (selDir c) src cb) s = .ok d (s.setCursor c v) := onCursor_ok hread
  simp only [tradOffset, pushOffset, Eng.bind_run, getState_run, hc, hcode, params_offsetOf, update_run, updateLoc_run,
    State.setCursor_lt, State.setLt_loc, State.setCursor_loc]
  rfl

theorem offsetControl_toNat (h l : BitVec 4) : (offsetControl h l).toNat = h.toNat * 16 + l.toNat := by
  rw [offsetControl, BitVec.toNat_append, Nat.shiftLeft_eq, Nat.mul_comm]
  have hl := l.isLt
  exact (Nat.two_pow_add_eq_or_of_lt hl _).symm

/-- Settles O44: the control byte's distance is read from the index's cursor and pushed. -/
theorem lzTraditionalOffsets : Obligations.LzTraditionalOffsets := by
  intro s c x hc hfilled hdir pushed
  refine ⟨fun h l n hh hn hx hr => ?small, fun m n y hn hx hr => ?large⟩
  case small =>
    have hcb := offsetControl_toNat h l
    have hl := l.isLt
    have hlt := h.isLt
    have hne : h.toNat ≠ 15 := fun h15 => hh (BitVec.eq_of_toNat_eq h15)
    obtain ⟨v, hread, hfull⟩ :=
      Cursor.readDistance_small (cb := offsetControl h l) hfilled (by omega) (by omega) hx hr
    rw [hdir, hcb, show (h.toNat * 16 + l.toNat) % 16 = l.toNat by omega] at hread
    exact ⟨v, hfull, settle_ok (tradOffset_ok hc.symm hread)⟩
  case large =>
    have hcb := offsetControl_toNat 0xF#4 m
    rw [show BitVec.toNat (0xF#4) = 15 from rfl] at hcb
    obtain ⟨v, hread, hfull⟩ :=
      Cursor.readDistance_large (cb := offsetControl 0xF#4 m) hfilled (by omega) (by omega) hx hr
    rw [hdir] at hread
    exact ⟨v, hfull, settle_ok (tradOffset_ok hc.symm hread)⟩

/-! ### The side buffer (R284, R285, R287) -/

/-- Where no element is expected, between two boundaries, the step is the sequencer's own. -/
theorem step_eq_sequence {s : State} {k : Ctl} (hdirect : s.direct = []) (hctl : s.ctl = k)
    (hboundary : (k == .idle || k == .blockStart) = false) (hexpects : s.expects = none) :
    step s = settle (sequence k) s := by
  have hnot : ¬ s.boundary = true := by simp only [State.boundary, hctl, hboundary, Bool.false_eq_true, not_false_eq_true]
  simp only [step, machineStep, if_neg hnot, engineStep, hdirect, hexpects, hctl]

theorem step_sideStore {s : State} (hdirect : s.direct = []) (hctl : s.ctl = .sideStore) :
    step s = settle sideStore s :=
  step_eq_sequence hdirect hctl rfl (by rw [State.expects, hctl])

theorem step_sideDone {s : State} (hdirect : s.direct = []) (hctl : s.ctl = .sideValues)
    (hlast : s.loc.sideCount ≤ s.loc.idx) : step s = settle sideDone s :=
  step_eq_sequence hdirect hctl rfl (by simp only [State.expects, hctl, if_neg (Nat.not_lt.2 hlast)])

theorem step_lengthsDone {s : State} (hdirect : s.direct = []) (hctl : s.ctl = .lengths)
    (hlast : s.lt.lenPacked.length ≤ s.loc.idx) : step s = settle lengthsDone s :=
  step_eq_sequence hdirect hctl rfl (by simp only [State.expects, hctl, if_neg (Nat.not_lt.2 hlast)])

/-- R341: a step that raises a cause, having changed nothing before, takes that cause's fault. -/
theorem stepFaults_of_raise {c : Cause} {m : Eng Unit} {s : State} (hstep : step s = settle m s)
    (hraise : m s = .error (.raise c) s) (hc : c ≠ .e47) : StepFaults c.cls.number c.number s :=
  ⟨takeFault c s, hstep.trans (settle_raise hraise), takeFault_spec c s hc⟩

theorem sideStore_ok {s : State} (h : s.resOk = true) :
    sideStore s = .ok () { s with lt := { s.lt with side := s.lt.side ++ [BitVec.ofInt 32 s.res] },
                                  loc := { s.loc with idx := s.loc.idx + 1 }, ctl := .sideValues } := by
  have hrequire : require s.resOk .e48 s = .ok () s := by rw [h, require_true]
  simp only [sideStore, Eng.bind_run, getState_run, hrequire, update_run, updateLoc_run, goto_run]
  rfl

theorem sideStore_raise {s : State} (h : s.resOk = false) : sideStore s = .error (.raise .e48) s := by
  simp only [sideStore, Eng.bind_run, getState_run, h, require_false]

theorem sideDone_ok {s : State} (h : s.a.consumedPos = s.b.consumedPos) :
    sideDone params s = .ok () { s with loc := { s.loc with idx := 0, sideUsed := 0 }, ctl := .lengths } := by
  simp only [sideDone, Eng.bind_run, getState_run, params_cursorsMeet, h, beq_self_eq_true, require_true, updateLoc_run,
    goto_run]
  rfl

theorem sideDone_raise {s : State} (h : s.a.consumedPos ≠ s.b.consumedPos) :
    sideDone params s = .error (.raise .e49) s := by
  simp only [sideDone, Eng.bind_run, getState_run, params_cursorsMeet, beq_eq_false_iff_ne.2 h, require_false]

theorem lengthsDone_ok {s : State} (h : s.loc.sideUsed = s.loc.sideCount) :
    lengthsDone params s = .ok () { s with ctl := .lzRuns } := by
  simp only [lengthsDone, Eng.bind_run, getState_run, params_sideUsedUp, h, beq_self_eq_true, require_true, goto_run]
  rfl

theorem lengthsDone_raise {s : State} (h : s.loc.sideUsed ≠ s.loc.sideCount) :
    lengthsDone params s = .error (.raise .e50) s := by
  simp only [lengthsDone, Eng.bind_run, getState_run, params_sideUsedUp, beq_eq_false_iff_ne.2 h, require_false]

/-- Settles O58: each of the sequencer's three computations passes its check, or raises its cause with nothing changed. -/
theorem sideBuffer : Obligations.SideBuffer := by
  intro s hdirect
  refine ⟨fun hctl hok => ?stored, fun hctl hok => ?noValue, fun hctl hlast hmeet => ?meet, fun hctl hlast hmeet => ?apart,
    fun hctl hlast hused => ?usedUp, fun hctl hlast hused => ?left⟩
  case stored => rw [step_sideStore hdirect hctl, settle_ok (sideStore_ok hok)]
  case noValue => exact stepFaults_of_raise (step_sideStore hdirect hctl) (sideStore_raise hok) (by decide)
  case meet => rw [step_sideDone hdirect hctl hlast, settle_ok (sideDone_ok hmeet)]
  case apart => exact stepFaults_of_raise (step_sideDone hdirect hctl hlast) (sideDone_raise hmeet) (by decide)
  case usedUp => rw [step_lengthsDone hdirect hctl hlast, settle_ok (lengthsDone_ok hused)]
  case left => exact stepFaults_of_raise (step_lengthsDone hdirect hctl hlast) (lengthsDone_raise hused) (by decide)

end Sys2Proof.Machine
end

section
/-! The body of a block: the fills (R308, R309), the checks of a payload (R305, R306, R314), the verbatim copy (R312) and the
start of a Kraken quantum (R310). -/

namespace Sys2Proof.Machine

/-! ### The copy of a fill (R309) -/

theorem dstValue_congr {m m' : Memory} {i : Nat} (h : Memory.read m i = Memory.read m' i) :
    dstValue m i = dstValue m' i := by
  rw [dstValue, dstValue, h]

theorem dstWrite_byte_ok {s : State} {o : Nat} {b : Byte} (h : o < s.dstLen) :
    dstWrite o [b] s = .ok () (s.setDst (Memory.write s.dst o b)) :=
  dstWrite_ok (.inr h)

/-- R309: each byte copied lies below the one that is written, so that it reads in the result as it did when it was copied. -/
theorem matchCopy_ok {dist o n : Nat} {s : State} (hdist : 1 ≤ dist) (ho : dist ≤ o) (hfits : o + n ≤ s.dstLen) :
    ∃ m, matchCopy dist o n s = .ok () (s.setDst m) ∧
      (∀ j < n, Memory.read m (o + j) = some (dstValue m (o + j - dist))) ∧
      ∀ a, a < o ∨ o + n ≤ a → Memory.read m a = Memory.read s.dst a := by
  induction n generalizing o s with
  | zero => exact ⟨s.dst, rfl, fun _ hj => absurd hj (Nat.not_lt_zero _), fun _ _ => rfl⟩
  | succ n ih =>
    have hread : dstRead (o - dist) s = .ok (dstValue s.dst (o - dist)) s := dstRead_ok (by omega)
    have hwrite := dstWrite_byte_ok (s := s) (b := dstValue s.dst (o - dist)) (show o < s.dstLen by omega)
    obtain ⟨m, hrest, hcopied, hframe⟩ := ih (o := o + 1)
      (s := s.setDst (Memory.write s.dst o (dstValue s.dst (o - dist)))) (by omega) (by rw [State.setDst_dstLen]; omega)
    rw [State.setDst_dst] at hframe
    have hfirst : Memory.read m o = some (dstValue m (o - dist)) := by
      have hsource : dstValue m (o - dist) = dstValue s.dst (o - dist) :=
        dstValue_congr ((hframe _ (by omega)).trans (Memory.read_write_other _ _ (by omega)))
      rw [hframe o (by omega), Memory.read_write_same, hsource]
    refine ⟨m, ?_, fun j hj => ?_, fun a ha => ?_⟩
    · rw [matchCopy, Eng.bind_ok hread, Eng.bind_ok hwrite, hrest]
      rfl
    · cases j with
      | zero => exact hfirst
      | succ j => simpa only [Nat.add_right_comm, Nat.add_assoc] using hcopied j (by omega)
    · rw [hframe a (by omega), Memory.read_write_other _ _ (by omega)]

/-! ### A fill (R308, R309) -/

theorem fillBlock_constant {s : State} {bs : Nat} (hdist : s.bh.wholeMatchDistance.toNat = 0)
    (hfits : s.off + bs ≤ s.dstLen) :
    fillBlock bs s =
      .ok () (s.setDst (Memory.writeList s.dst s.off (List.replicate bs (BitVec.ofNat 8 s.bh.checksum.toNat)))) := by
  simp only [fillBlock, Eng.bind_run, getState_run, if_pos hdist, BitVec.ofNat_toNat]
  exact dstWrite_ok (.inr (by rwa [List.length_replicate]))

theorem fillBlock_copy {s : State} (bs : Nat) (hpos : 1 ≤ s.bh.wholeMatchDistance.toNat)
    (hdist : s.bh.wholeMatchDistance.toNat ≤ s.off) :
    fillBlock bs s = matchCopy s.bh.wholeMatchDistance.toNat s.off bs s := by
  simp only [fillBlock, Eng.bind_run, getState_run, if_neg (Nat.ne_of_gt hpos), decide_eq_true hdist, require_true]

theorem fillBlock_raise {s : State} (bs : Nat) (hdist : s.off < s.bh.wholeMatchDistance.toNat) :
    fillBlock bs s = .error (.raise .e11) s := by
  simp only [fillBlock, Eng.bind_run, getState_run, if_neg (show s.bh.wholeMatchDistance.toNat ≠ 0 by omega),
    decide_eq_false (Nat.not_le.2 hdist), require_false]

/-! ### The block's body (R301) -/

theorem step_blockBody {s : State} (hdirect : s.direct = []) (hctl : s.ctl = .blockBody) :
    step s = settle (blockBody params) s :=
  step_eq_sequence hdirect hctl rfl (by rw [State.expects, hctl])

theorem blockBody_fill {s : State} (hkind : s.bh.kind = .fill) :
    blockBody params s = (do fillBlock s.loc.bs; goto .blockEnd) s := by
  simp only [blockBody, Eng.bind_run, getState_run, if_pos hkind]

theorem blockBody_fill_ok {s t : State} (hkind : s.bh.kind = .fill) (hfill : fillBlock s.loc.bs s = .ok () t) :
    blockBody params s = .ok () (t.setCtl .blockEnd) := by
  rw [blockBody_fill hkind, Eng.bind_ok hfill, goto_run]

theorem blockBody_fill_raise {s : State} {c : Cause} (hkind : s.bh.kind = .fill)
    (hfill : fillBlock s.loc.bs s = .error (.raise c) s) : blockBody params s = .error (.raise c) s := by
  rw [blockBody_fill hkind, Eng.bind_error hfill]

/-- Settles O52: a distance of 0 fills, one that stays in the output copies, one that leaves it raises E11. -/
theorem fillBlocks : Obligations.FillBlocks := by
  intro s hdirect hctl hkind hfits dist
  have hstep := step_blockBody hdirect hctl
  refine ⟨fun hzero => ?constant, fun hpos hdist => ?copy, fun hfar => ?outside⟩
  case constant =>
    exact ⟨_, hstep.trans (settle_ok (blockBody_fill_ok hkind (fillBlock_constant hzero hfits))), rfl,
      Memory.stored_replicate _ _ _ _⟩
  case copy =>
    obtain ⟨m, hcopy, hcopied, hframe⟩ := matchCopy_ok hpos hdist hfits
    exact ⟨_, hstep.trans (settle_ok (blockBody_fill_ok hkind ((fillBlock_copy _ hpos hdist).trans hcopy))), rfl,
      hcopied, hframe⟩
  case outside =>
    exact stepFaults_of_raise hstep (blockBody_fill_raise hkind (fillBlock_raise _ hfar)) (by decide)

/-! ### A payload (R305, R306, R312, R314) -/

theorem blockBody_payload_truncated {s : State} (hkind : s.bh.kind ≠ .fill)
    (hsrc : s.srcLen < s.loc.s + s.bh.compressedSize.toNat) : blockBody params s = .error (.raise .e08) s := by
  simp only [blockBody, Eng.bind_run, getState_run, if_neg hkind, decide_eq_false (Nat.not_le.2 hsrc), require_false]

theorem blockBody_payload_oversized {s : State} (hkind : s.bh.kind ≠ .fill)
    (hsrc : s.loc.s + s.bh.compressedSize.toNat ≤ s.srcLen) (hsize : s.loc.bs < s.bh.compressedSize.toNat) :
    blockBody params s = .error (.raise .e09) s := by
  simp only [blockBody, Eng.bind_run, getState_run, if_neg hkind, decide_eq_true hsrc, require_true, params_payloadBound,
    decide_eq_false (Nat.not_le.2 hsize), require_false]

/-- R305, R306: a payload that passes its checks is copied or starts a quantum. -/
theorem blockBody_payload {s : State} (hkind : s.bh.kind ≠ .fill)
    (hsrc : s.loc.s + s.bh.compressedSize.toNat ≤ s.srcLen) (hsize : s.bh.compressedSize.toNat ≤ s.loc.bs) :
    blockBody params s =
      (if s.bh.compressedSize.toNat = s.loc.bs then do
        copySrc s.off s.loc.s s.loc.bs
        updateLoc fun l => { l with s := l.s + s.bh.compressedSize.toNat }
        goto .blockEnd
      else do
        require (s.sh.family == Family.kraken) .e13
        updateLoc fun l => { l with p := l.s, e := l.s + s.bh.compressedSize.toNat, d := s.off }
        goto .quantumLoop) s := by
  simp only [blockBody, Eng.bind_run, getState_run, if_neg hkind, decide_eq_true hsrc, require_true, params_payloadBound,
    decide_eq_true hsize]

theorem blockBody_verbatim {s : State} (hkind : s.bh.kind ≠ .fill)
    (hsrc : s.loc.s + s.bh.compressedSize.toNat ≤ s.srcLen) (hsize : s.bh.compressedSize.toNat = s.loc.bs)
    (hfits : s.off + s.loc.bs ≤ s.dstLen) :
    blockBody params s = .ok ()
      { s with dst := Memory.writeList s.dst s.off (srcValues s.src s.loc.s s.loc.bs),
               loc := { s.loc with s := s.loc.s + s.bh.compressedSize.toNat }, ctl := .blockEnd } := by
  have hcopy := copySrc_ok (s := s) (n := s.loc.bs) (.inr (hsize ▸ hsrc)) (.inr hfits)
  rw [blockBody_payload hkind hsrc (Nat.le_of_eq hsize), if_pos hsize, Eng.bind_ok hcopy]
  rfl

theorem blockBody_noQuantum {s : State} (hkind : s.bh.kind ≠ .fill)
    (hsrc : s.loc.s + s.bh.compressedSize.toNat ≤ s.srcLen) (hsize : s.bh.compressedSize.toNat < s.loc.bs)
    (hfamily : s.sh.family ≠ .kraken) : blockBody params s = .error (.raise .e13) s := by
  rw [blockBody_payload hkind hsrc (Nat.le_of_lt hsize), if_neg (Nat.ne_of_lt hsize), beq_eq_false_iff_ne.2 hfamily,
    Eng.bind_error (require_false _ _)]

theorem blockBody_quantum {s : State} (hkind : s.bh.kind ≠ .fill)
    (hsrc : s.loc.s + s.bh.compressedSize.toNat ≤ s.srcLen) (hsize : s.bh.compressedSize.toNat < s.loc.bs)
    (hfamily : s.sh.family = .kraken) :
    blockBody params s = .ok ()
      { s with loc := { s.loc with p := s.loc.s, e := s.loc.s + s.bh.compressedSize.toNat, d := s.off },
               ctl := .quantumLoop } := by
  rw [blockBody_payload hkind hsrc (Nat.le_of_lt hsize), if_neg (Nat.ne_of_lt hsize), beq_iff_eq.2 hfamily,
    Eng.bind_ok (require_true _ _)]
  rfl

/-- Settles O53: the checks in their order, then the copy or the quantum's start. -/
theorem payloadBlocks : Obligations.PayloadBlocks := by
  intro s hdirect hctl hkind size
  have hstep := step_blockBody hdirect hctl
  refine ⟨fun hsrc => ?truncated, fun hsrc hsize => ?oversized, fun hsrc hsize hfits => ?verbatim,
    fun hsrc hsize hfamily => ?noQuantum, fun hsrc hsize hfamily => ?quantum⟩
  case truncated => exact stepFaults_of_raise hstep (blockBody_payload_truncated hkind hsrc) (by decide)
  case oversized => exact stepFaults_of_raise hstep (blockBody_payload_oversized hkind hsrc hsize) (by decide)
  case verbatim =>
    exact ⟨_, hstep.trans (settle_ok (blockBody_verbatim hkind hsrc hsize hfits)), rfl, Memory.stored_srcValues _ _ _ _ _⟩
  case noQuantum => exact stepFaults_of_raise hstep (blockBody_noQuantum hkind hsrc hsize hfamily) (by decide)
  case quantum => exact hstep.trans (settle_ok (blockBody_quantum hkind hsrc hsize hfamily))

end Sys2Proof.Machine
end

section
/-! Encodings and decoders (spec file 30_encoding.md).  A string shows the bits that a cursor would read from it, zeros standing
after its end (R61, R123).  What each decoder reads, the string shows as that element's encoding; and what is encoded is read back. -/

namespace Sys2Proof

/-! ### Bit strings of joined fields -/

theorem bitsOf_append {m n : Nat} (x : BitVec m) (y : BitVec n) : bitsOf (x ++ y) = bitsOf x ++ bitsOf y := by
  apply List.ext_getElem?
  intro i
  rw [List.getElem?_append, bitsOf_length, bitsOf, bitsOf, bitsOf, bitsOfNat_getElem?, bitsOfNat_getElem?,
    bitsOfNat_getElem?]
  simp only [BitVec.testBit_toNat, BitVec.getLsbD_append]
  by_cases hi : i < m
  · rw [if_pos hi, if_pos (by omega), if_neg (by omega), show m + n - 1 - i - n = m - 1 - i by omega, if_pos hi]
  · by_cases hn : i < m + n
    · rw [if_neg hi, if_pos hn, if_pos (by omega), if_pos (by omega), show m + n - 1 - i = n - 1 - (i - m) by omega]
    · rw [if_neg hi, if_neg hn, if_neg (by omega)]

theorem bitsOf_ofBool (b : Bool) : bitsOf (BitVec.ofBool b) = [b] := by
  cases b <;> rfl

/-- A field is the join of its upper and its lower bits. -/
theorem bitVec_eq_append (m n : Nat) (v : BitVec (m + n)) : v = v.extractLsb' n m ++ v.extractLsb' 0 n := by
  apply BitVec.eq_of_getLsbD_eq
  intro i hi
  rw [BitVec.getLsbD_append, BitVec.getLsbD_extractLsb', BitVec.getLsbD_extractLsb']
  by_cases hin : i < n
  · simp [hin]
  · simp [hin, show i - n < m by omega, show n + (i - n) = i by omega]

theorem bitVec_eq_ofBool (v : BitVec 1) : v = BitVec.ofBool (v.getLsbD 0) := by
  revert v
  decide

/-! ### What a string shows -/

/-- The bits stand at the front of the string, zeros standing after the string's end. -/
def Shows : Bits → Bits → Prop
  | _, [] => True
  | bs, b :: bits => (takeBit bs).1 = b ∧ Shows (takeBit bs).2 bits

theorem Shows.nil (bs : Bits) : Shows bs [] := trivial

theorem Shows.isPrefix {bs bits : Bits} (h : Shows bs bits) : bits <+: bs ++ List.replicate bits.length false := by
  induction bits generalizing bs with
  | nil => exact List.nil_prefix
  | cons b bits ih =>
    obtain ⟨rfl, hrest⟩ := h
    have hprefix := ih hrest
    cases bs with
    | nil => exact List.cons_prefix_cons.2 ⟨rfl, hprefix⟩
    | cons x bs =>
      rw [List.length_cons, List.replicate_succ', ← List.append_assoc]
      exact (List.cons_prefix_cons.2 ⟨rfl, hprefix⟩).trans (List.prefix_append _ _)

theorem Shows.bit {bs r bits : Bits} {b : Bool} (hb : takeBit bs = (b, r)) (h : Shows r bits) : Shows bs (b :: bits) := by
  rw [Shows, hb]
  exact ⟨rfl, h⟩

theorem takeNat_succ (n acc : Nat) (bs : Bits) :
    takeNat (n + 1) acc bs = takeNat n (2 * acc + (takeBit bs).1.toNat) (takeBit bs).2 := by
  cases bs <;> rfl

/-- The bits read stand below those of the number they are read onto. -/
theorem takeNat_div (n acc : Nat) (bs : Bits) : (takeNat n acc bs).1 / 2 ^ n = acc := by
  induction n generalizing acc bs with
  | zero => simp [takeNat]
  | succ n ih =>
    rw [takeNat_succ, Nat.pow_succ, ← Nat.div_div_eq_div_mul, ih]
    have := Bool.toNat_le (takeBit bs).1
    omega

theorem takeNat_lt (n : Nat) (bs : Bits) : (takeNat n 0 bs).1 < 2 ^ n :=
  Nat.lt_of_div_eq_zero (Nat.two_pow_pos n) (takeNat_div n 0 bs)

theorem Shows.number {n acc x : Nat} {bs r bits : Bits} (hx : takeNat n acc bs = (x, r)) (h : Shows r bits) :
    Shows bs (bitsOfNat n x ++ bits) := by
  induction n generalizing acc bs with
  | zero =>
    obtain ⟨-, rfl⟩ := Prod.mk.inj hx
    exact h
  | succ n ih =>
    rw [takeNat_succ] at hx
    have htop : x / 2 ^ n = 2 * acc + (takeBit bs).1.toNat := by
      rw [← takeNat_div n (2 * acc + (takeBit bs).1.toNat) (takeBit bs).2, hx]
    have hbit : (takeBit bs).1 = x.testBit n := by
      rw [Nat.testBit_eq_decide_div_mod_eq, htop]
      cases (takeBit bs).1 <;> simp [Nat.add_mod]
    exact ⟨hbit, ih hx⟩

theorem Shows.field {n : Nat} {v : BitVec n} {bs r bits : Bits} (hv : takeField n bs = (v, r)) (h : Shows r bits) :
    Shows bs (bitsOf v ++ bits) := by
  obtain ⟨rfl, rfl⟩ := Prod.mk.inj hv
  rw [bitsOf, BitVec.toNat_ofNat, Nat.mod_eq_of_lt (takeNat_lt n bs)]
  exact Shows.number rfl h

theorem Shows.lastField {n : Nat} {v : BitVec n} {bs r : Bits} (hv : takeField n bs = (v, r)) : Shows bs (bitsOf v) := by
  simpa using Shows.field hv (Shows.nil r)

/-- The zeros counted are there, with the one bit after them unless the count ran out. -/
theorem Shows.zeros {k n : Nat} {bs r : Bits} (hn : takeZeros k bs = (n, r)) :
    n ≤ k ∧ (n = k → Shows bs (List.replicate k false)) ∧
      (n < k → ∀ bits, Shows r bits → Shows bs (List.replicate n false ++ true :: bits)) := by
  induction k generalizing n bs with
  | zero =>
    obtain ⟨rfl, rfl⟩ := Prod.mk.inj hn
    exact ⟨Nat.le_refl _, fun _ => trivial, fun h => absurd h (Nat.lt_irrefl _)⟩
  | succ k ih =>
    have step : ∀ (rest : Bits) (m : Nat), takeBit bs = (false, rest) → takeZeros k rest = (m, r) → n = m + 1 →
        n ≤ k + 1 ∧ (n = k + 1 → Shows bs (List.replicate (k + 1) false)) ∧
          (n < k + 1 → ∀ bits, Shows r bits → Shows bs (List.replicate n false ++ true :: bits)) := by
      rintro rest m hbit hrest rfl
      obtain ⟨hle, hall, hone⟩ := ih hrest
      exact ⟨by omega, fun h => .bit hbit (hall (by omega)), fun h bits hb => .bit hbit (hone (by omega) bits hb)⟩
    cases bs with
    | nil =>
      obtain ⟨rfl, hr⟩ := Prod.mk.inj hn
      exact step [] _ rfl (by rw [← hr]) rfl
    | cons b bs =>
      cases b with
      | false =>
        obtain ⟨rfl, hr⟩ := Prod.mk.inj hn
        exact step bs _ rfl (by rw [← hr]) rfl
      | true =>
        obtain ⟨rfl, rfl⟩ := Prod.mk.inj hn
        exact ⟨by omega, fun h => by omega, fun _ bits hb => .bit rfl hb⟩

/-! ### Codes `0^n 1 b` -/

theorem wfCode_iff {n w b : Nat} : wfCode n w b = true ↔ n < 32 ∧ b < 2 ^ w ∨ n = 32 ∧ b = 0 := by
  simp [wfCode]

theorem decodeCode_of_takeZeros {w : Nat → Nat} {bs r : Bits} {n : Nat} (h : takeZeros 32 bs = (n, r)) :
    decodeCode w bs = if n < 32 then (n, (takeNat (w n) 0 r).1) else (n, 0) := by
  rw [decodeCode, h]

/-- What is read as a code is one, and the string shows it. -/
theorem decodeCode_spec {w : Nat → Nat} {bs : Bits} {n b : Nat} (h : decodeCode w bs = (n, b)) :
    wfCode n (w n) b = true ∧ Shows bs (zerosOneBits n (w n) b) := by
  obtain ⟨m, r, hz⟩ : ∃ m r, takeZeros 32 bs = (m, r) := ⟨_, _, rfl⟩
  obtain ⟨hle, hall, hone⟩ := Shows.zeros hz
  rw [decodeCode_of_takeZeros hz] at h
  split at h
  next hlt =>
    obtain ⟨rfl, rfl⟩ := Prod.mk.inj h
    refine ⟨wfCode_iff.2 (.inl ⟨hlt, takeNat_lt _ _⟩), ?_⟩
    rw [zerosOneBits, if_pos hlt]
    simpa using hone hlt _ (Shows.number rfl (Shows.nil _))
  next hge =>
    obtain ⟨rfl, rfl⟩ := Prod.mk.inj h
    refine ⟨wfCode_iff.2 (.inr ⟨by omega, rfl⟩), ?_⟩
    rw [zerosOneBits, if_neg hge]
    exact hall (by omega)

theorem takeZeros_all (k : Nat) (rest : Bits) : takeZeros k (List.replicate k false ++ rest) = (k, rest) := by
  induction k with
  | zero => rfl
  | succ k ih => simp only [List.replicate_succ, List.cons_append, takeZeros, ih]

/-- A code written is read back. -/
theorem decodeCode_zerosOneBits {w : Nat → Nat} {n b : Nat} (h : wfCode n (w n) b = true) (rest : Bits) :
    decodeCode w (zerosOneBits n (w n) b ++ rest) = (n, b) := by
  rcases wfCode_iff.1 h with ⟨hn, hb⟩ | ⟨rfl, rfl⟩
  · have hz : takeZeros 32 (zerosOneBits n (w n) b ++ rest) = (n, bitsOfNat (w n) b ++ rest) := by
      rw [zerosOneBits, if_pos hn, List.append_assoc, List.cons_append, takeZeros_replicate hn]
    rw [decodeCode_of_takeZeros hz, if_pos hn, takeNat_bitsOfNat, Nat.mod_eq_of_lt hb, Nat.zero_mul, Nat.zero_add]
  · rw [zerosOneBits, if_neg (Nat.lt_irrefl 32), decodeCode_of_takeZeros (takeZeros_all 32 rest),
      if_neg (Nat.lt_irrefl 32)]

end Sys2Proof
end

section
/-! Encodings and decoders, element kind by element kind. -/

namespace Sys2Proof

/-- The instruction is one that the context admits, and its encoding, where it has one, is what the string shows. -/
def ReadFrom (ctx : Ctx) (bs : Bits) (i : Instr) : Prop :=
  ctx.admits i = true ∧ ∀ bits, encode i = some bits → Shows bs bits

theorem ReadFrom.encoded {ctx : Ctx} {bs bits : Bits} {i : Instr} (hi : ctx.admits i = true)
    (hbits : encode i = some bits) (hshows : Shows bs bits) : ReadFrom ctx bs i :=
  ⟨hi, fun _ h => by cases hbits.symm.trans h; exact hshows⟩

theorem ReadFrom.notEncoded {ctx : Ctx} {bs : Bits} {i : Instr} (hi : ctx.admits i = true) (hnone : encode i = none) :
    ReadFrom ctx bs i :=
  ⟨hi, fun _ h => by cases hnone.symm.trans h⟩

/-! ### CTRL (R32) -/

theorem decodeCtrl_reads {bs : Bits} {i : Instr} (h : decodeCtrl bs = .ok i) : ReadFrom .ctrl bs i := by
  rcases hx : takeField 29 bs with ⟨x, b1⟩
  rcases hf : takeBit b1 with ⟨f, b2⟩
  rcases hr : takeBit b2 with ⟨r, b3⟩
  rcases hs : takeBit b3 with ⟨st, b4⟩
  simp only [decodeCtrl, hx, hf, hr, hs] at h
  split at h
  next hreset =>
    cases h
    subst hreset
    refine .encoded rfl (congrArg some ?_) (.field hx (.bit hf (.bit hr (.bit hs (.nil _)))))
    rw [bitsOf_append, bitsOf_ofBool, List.append_assoc]
    rfl
  next hreset =>
    rw [Bool.not_eq_true] at hreset
    subst hreset
    split at h
    next hstart =>
      cases h
      subst hstart
      exact .encoded rfl rfl (.field hx (.bit hf (.bit hr (.bit hs (.nil _)))))
    next hstart =>
      rw [Bool.not_eq_true] at hstart
      subst hstart
      split at h
      next hforget =>
        cases h
        subst hforget
        exact .encoded rfl rfl (.field hx (.bit hf (.bit hr (.bit hs (.nil _)))))
      next => cases h

theorem decodeCtrl_fields (x : BitVec 29) (f r st : Bool) (rest : Bits) :
    decodeCtrl (bitsOf x ++ f :: r :: st :: rest) =
      if r then .ok (.ctrlSoftReset (x ++ BitVec.ofBool f) st)
      else if st then .ok (.ctrlStart x f) else if f then .ok (.ctrlForgetStream x) else .error .noCommand := by
  simp only [decodeCtrl, takeField_bitsOf, takeBit_cons]

theorem decodeCtrl_encode {i : Instr} {bits rest : Bits} (hi : Ctx.ctrl.admits i = true) (hbits : encode i = some bits) :
    decodeCtrl (bits ++ rest) = .ok i := by
  cases i with
  | ctrlStart x f => cases hbits; simp [decodeCtrl_fields]
  | ctrlSoftReset x x0 =>
    cases hbits
    have hsplit := bitVec_eq_append 29 1 x
    rw [bitVec_eq_ofBool (x.extractLsb' 0 1)] at hsplit
    rw [hsplit, bitsOf_append, bitsOf_ofBool]
    simp [decodeCtrl_fields]
  | ctrlForgetStream x => cases hbits; simp [decodeCtrl_fields]
  | _ => cases hi

/-- Settles O10: the word is its upper field and its three command bits. -/
theorem ctrlWords : Obligations.CtrlWords := by
  intro v
  have hsplit : v = v.extractLsb' 3 29 ++ BitVec.ofBool (v.getLsbD 2) ++ BitVec.ofBool (v.getLsbD 1) ++
      BitVec.ofBool (v.getLsbD 0) := by
    apply BitVec.eq_of_getLsbD_eq
    intro i hi
    simp only [BitVec.getLsbD_append, BitVec.getLsbD_extractLsb', BitVec.getLsbD_ofBool]
    rcases (by omega : i = 0 ∨ i = 1 ∨ i = 2 ∨ 3 ≤ i) with rfl | rfl | rfl | h3
    · simp
    · simp
    · simp
    · simp [show ¬ i < 1 by omega, show ¬ i - 1 < 1 by omega, show ¬ i - 1 - 1 < 1 by omega,
        show i - 1 - 1 - 1 < 29 by omega, show 3 + (i - 1 - 1 - 1) = i by omega]
  have hreset : v.extractLsb' 3 29 ++ BitVec.ofBool (v.getLsbD 2) = v.extractLsb' 2 30 := by
    apply BitVec.eq_of_getLsbD_eq
    intro i hi
    simp only [BitVec.getLsbD_append, BitVec.getLsbD_extractLsb', BitVec.getLsbD_ofBool]
    cases i with
    | zero => simp
    | succ i => simp [show i < 29 by omega, hi, show 3 + i = 2 + (i + 1) by omega]
  have hbits : bitsOf v = bitsOf (v.extractLsb' 3 29) ++ v.getLsbD 2 :: v.getLsbD 1 :: v.getLsbD 0 :: [] := by
    rw [hsplit, bitsOf_append, bitsOf_append, bitsOf_append, bitsOf_ofBool, bitsOf_ofBool, bitsOf_ofBool, ← hsplit]
    simp
  rw [decode_ctrl, hbits, decodeCtrl_fields, hreset]

/-! ### Stream headers (R81, R161) -/

theorem notFamilyCode_iff (f : BitVec 7) :
    (!familyCodes.contains f.toNat) = true ↔ f ≠ 5#7 ∧ f ≠ 6#7 ∧ f ≠ 10#7 ∧ f ≠ 11#7 ∧ f ≠ 12#7 := by
  simp [familyCodes, ← BitVec.toNat_inj]

theorem decodeStreamHeader_reads {bs : Bits} {i : Instr} (h : decodeStreamHeader bs = .ok i) :
    ReadFrom .streamHeader bs i := by
  rcases hr : takeBit bs with ⟨r, b1⟩
  rcases hu : takeBit b1 with ⟨u, b2⟩
  rcases hv : takeField 2 b2 with ⟨reserved, b3⟩
  rcases hm : takeField 4 b3 with ⟨magic, b4⟩
  rcases hc : takeBit b4 with ⟨c, b5⟩
  rcases hf : takeField 7 b5 with ⟨fam, b6⟩
  have hall : Shows bs (r :: u :: (bitsOf reserved ++ (bitsOf magic ++ c :: bitsOf fam))) :=
    .bit hr (.bit hu (.field hv (.field hm (.bit hc (.lastField hf)))))
  have hy : bitsOf (BitVec.ofBool c ++ fam) = c :: bitsOf fam := by rw [bitsOf_append, bitsOf_ofBool]; rfl
  have hx : bitsOf (BitVec.ofBool r ++ BitVec.ofBool u) = [r, u] := by
    rw [bitsOf_append, bitsOf_ofBool, bitsOf_ofBool]
    rfl
  simp only [decodeStreamHeader, hr, hu, hv, hm, hc, hf] at h
  split at h
  next => cases h; exact .notEncoded rfl rfl
  split at h
  next hmagic =>
    cases h
    refine .encoded (bne_iff_ne.2 hmagic) (congrArg some ?_) hall
    rw [bitsOf_append, hx, hy]
    simp
  next hmagic =>
  rw [ne_eq, Decidable.not_not] at hmagic
  split at h
  next hreserved =>
    cases h
    refine .encoded (bne_iff_ne.2 hreserved) (congrArg some ?_) hall
    rw [hx, hy, hmagic]
    simp
  next hreserved =>
  rw [ne_eq, Decidable.not_not] at hreserved
  rw [hmagic, hreserved] at hall
  have legal : ∀ j, Ctx.streamHeader.admits j = true → encode j = some (encodeStreamHeader r u c fam) →
      ReadFrom .streamHeader bs j := fun j hj he => .encoded hj he (by simpa [encodeStreamHeader] using hall)
  split at h
  next hfam => cases h; subst hfam; exact legal _ rfl rfl
  split at h
  next hfam => cases h; subst hfam; exact legal _ rfl rfl
  split at h
  next hfam => cases h; subst hfam; exact legal _ rfl rfl
  split at h
  next hfam => cases h; subst hfam; exact legal _ rfl rfl
  split at h
  next hfam => cases h; subst hfam; exact legal _ rfl rfl
  next h5 h6 h10 h11 h12 =>
    cases h
    refine legal _ ((notFamilyCode_iff fam).2 ⟨h5, h6, h10, h11, h12⟩) rfl

/-- R161: the header's decision, by its fields. -/
theorem decodeStreamHeader_fields (r u c : Bool) (reserved : BitVec 2) (magic : BitVec 4) (fam : BitVec 7) (rest : Bits) :
    decodeStreamHeader (r :: u :: (bitsOf reserved ++ (bitsOf magic ++ c :: (bitsOf fam ++ rest)))) =
      if magic ≠ 0xC#4 then
        .ok (.streamHeaderBadMagic (BitVec.ofBool r ++ BitVec.ofBool u ++ reserved) magic (BitVec.ofBool c ++ fam))
      else if reserved ≠ 0#2 then
        .ok (.streamHeaderBadReserved (BitVec.ofBool r ++ BitVec.ofBool u) reserved (BitVec.ofBool c ++ fam))
      else if fam = 5#7 then .ok (.streamHeaderLzna r u c)
      else if fam = 6#7 then .ok (.streamHeaderKraken r u c)
      else if fam = 10#7 then .ok (.streamHeaderMermaid r u c)
      else if fam = 11#7 then .ok (.streamHeaderBitknit r u c)
      else if fam = 12#7 then .ok (.streamHeaderLeviathan r u c)
      else .ok (.streamHeaderBadFamily r u c fam) := by
  rw [decodeStreamHeader, if_neg (by simp; omega)]
  simp only [takeField_bitsOf, takeBit_cons]

theorem decodeStreamHeader_legal (r u c : Bool) (fam : BitVec 7) (rest : Bits) :
    decodeStreamHeader (encodeStreamHeader r u c fam ++ rest) =
      if fam = 5#7 then .ok (.streamHeaderLzna r u c)
      else if fam = 6#7 then .ok (.streamHeaderKraken r u c)
      else if fam = 10#7 then .ok (.streamHeaderMermaid r u c)
      else if fam = 11#7 then .ok (.streamHeaderBitknit r u c)
      else if fam = 12#7 then .ok (.streamHeaderLeviathan r u c)
      else .ok (.streamHeaderBadFamily r u c fam) := by
  have := decodeStreamHeader_fields r u c 0#2 0xC#4 fam rest
  simpa [encodeStreamHeader] using this

theorem bitVec8_split (y : Byte) : ∃ (c : Bool) (fam : BitVec 7), y = BitVec.ofBool c ++ fam :=
  ⟨_, _, (bitVec_eq_append 1 7 y).trans (by rw [bitVec_eq_ofBool (y.extractLsb' 7 1)])⟩

theorem bitVec2_split (x : BitVec 2) : ∃ r u : Bool, x = BitVec.ofBool r ++ BitVec.ofBool u :=
  ⟨_, _, (bitVec_eq_append 1 1 x).trans (by
    rw [bitVec_eq_ofBool (x.extractLsb' 1 1), bitVec_eq_ofBool (x.extractLsb' 0 1)])⟩

theorem decodeStreamHeader_encode {i : Instr} {bits rest : Bits} (hi : Ctx.streamHeader.admits i = true)
    (hbits : encode i = some bits) : decodeStreamHeader (bits ++ rest) = .ok i := by
  cases i with
  | streamHeaderLzna r u c => cases hbits; exact decodeStreamHeader_legal ..
  | streamHeaderKraken r u c => cases hbits; exact decodeStreamHeader_legal ..
  | streamHeaderMermaid r u c => cases hbits; exact decodeStreamHeader_legal ..
  | streamHeaderBitknit r u c => cases hbits; exact decodeStreamHeader_legal ..
  | streamHeaderLeviathan r u c => cases hbits; exact decodeStreamHeader_legal ..
  | streamHeaderBadMagic x m y =>
    cases hbits
    have hm : m ≠ 0xC#4 := bne_iff_ne.1 hi
    obtain ⟨c, fam, rfl⟩ := bitVec8_split y
    obtain ⟨r, u, lo, rfl⟩ : ∃ (r u : Bool) (lo : BitVec 2), x = BitVec.ofBool r ++ BitVec.ofBool u ++ lo := by
      obtain ⟨r, u, hx⟩ := bitVec2_split (x.extractLsb' 2 2)
      exact ⟨r, u, _, (bitVec_eq_append 2 2 x).trans (by rw [hx])⟩
    have hfields := decodeStreamHeader_fields r u c lo m fam rest
    rw [if_pos hm] at hfields
    rw [← hfields, bitsOf_append, bitsOf_append, bitsOf_append, bitsOf_ofBool, bitsOf_ofBool, bitsOf_ofBool]
    simp
  | streamHeaderBadReserved x v y =>
    cases hbits
    have hv : v ≠ 0#2 := bne_iff_ne.1 hi
    obtain ⟨c, fam, rfl⟩ := bitVec8_split y
    obtain ⟨r, u, rfl⟩ := bitVec2_split x
    have hfields := decodeStreamHeader_fields r u c v 0xC#4 fam rest
    rw [if_neg (fun h => h rfl), if_pos hv] at hfields
    rw [← hfields, bitsOf_append, bitsOf_append, bitsOf_ofBool, bitsOf_ofBool, bitsOf_ofBool]
    simp
  | streamHeaderBadFamily r u c f =>
    cases hbits
    obtain ⟨h5, h6, h10, h11, h12⟩ := (notFamilyCode_iff f).1 hi
    rw [decodeStreamHeader_legal, if_neg h5, if_neg h6, if_neg h10, if_neg h11, if_neg h12]
  | streamHeaderTruncated => cases hbits
  | _ => cases hi

end Sys2Proof
end

section
namespace Sys2Proof

/-! ### Kraken-family block headers (R83, R84) -/

theorem decodeKrakenBh_reads {ck : Bool} {bs : Bits} {i : Instr} (h : decodeKrakenBh ck bs = .ok i) :
    ReadFrom (.krakenBh ck) bs i := by
  rcases hx : takeField 4 bs with ⟨x, b1⟩
  rcases h2 : takeBit b1 with ⟨flag2, b2⟩
  rcases h1 : takeBit b2 with ⟨flag1, b3⟩
  rcases hs : takeField 18 b3 with ⟨size, b4⟩
  rcases hc : takeField 24 b4 with ⟨c, b5⟩
  rcases hk : takeField 8 b4 with ⟨k, b6⟩
  simp only [decodeKrakenBh, hx, h2, h1, hs, hc, hk] at h
  split at h
  next => cases h; exact .notEncoded rfl rfl
  split at h
  next hsize =>
    cases ck with
    | false =>
      cases h
      exact .encoded (bne_iff_ne.2 hsize) rfl (.field hx (.bit h2 (.bit h1 (.lastField hs))))
    | true =>
      simp only [if_true] at h
      split at h
      next => cases h; exact .notEncoded rfl rfl
      next =>
        cases h
        exact .encoded (bne_iff_ne.2 hsize) rfl (.field hx (.bit h2 (.bit h1 (.field hs (.lastField hc)))))
  next hsize =>
    rw [ne_eq, Decidable.not_not] at hsize
    subst hsize
    have hctl : bitsOf (x ++ BitVec.ofBool flag2 ++ BitVec.ofBool flag1) = bitsOf x ++ [flag2, flag1] := by
      rw [bitsOf_append, bitsOf_append, bitsOf_ofBool, bitsOf_ofBool, List.append_assoc]
      rfl
    split at h
    next hfill =>
      rw [hfill] at hctl
      split at h
      next => cases h; exact .notEncoded rfl rfl
      next =>
        cases h
        refine .encoded rfl (congrArg some ?_) (.field hx (.bit h2 (.bit h1 (.field hs (.lastField hk)))))
        rw [hctl]
        simp
    next hbad =>
      cases h
      refine .encoded (bne_iff_ne.2 hbad) (congrArg some ?_) (.field hx (.bit h2 (.bit h1 (.lastField hs))))
      rw [hctl]
      simp

/-- R83, R84: the header's decision, by its first word. -/
theorem decodeKrakenBh_fields (ck : Bool) (x : BitVec 4) (flag2 flag1 : Bool) (s : BitVec 18) (rest : Bits) :
    decodeKrakenBh ck (bitsOf x ++ flag2 :: flag1 :: (bitsOf s ++ rest)) =
      if s ≠ 0x3FFFF#18 then
        if ck then
          if rest.length < 24 then .ok .krakenBhTruncated
          else .ok (.krakenBhNormalCk x flag2 flag1 s (takeField 24 rest).1)
        else .ok (.krakenBhNormal x flag2 flag1 s)
      else if x ++ BitVec.ofBool flag2 ++ BitVec.ofBool flag1 = 1#6 then
        if rest.length < 8 then .ok .krakenBhTruncated else .ok (.krakenBhFill (takeField 8 rest).1)
      else .ok (.krakenBhBadSentinel (x ++ BitVec.ofBool flag2 ++ BitVec.ofBool flag1)) := by
  have hlen : (bitsOf x ++ flag2 :: flag1 :: (bitsOf s ++ rest)).length = 24 + rest.length := by simp; omega
  have h48 : 24 + rest.length < 48 ↔ rest.length < 24 := by omega
  have h32 : 24 + rest.length < 32 ↔ rest.length < 8 := by omega
  rw [decodeKrakenBh, if_neg (by omega)]
  simp only [takeField_bitsOf, takeBit_cons, hlen, h48, h32]

theorem bitVec6_split (e : BitVec 6) :
    ∃ (x : BitVec 4) (b c : Bool), e = x ++ BitVec.ofBool b ++ BitVec.ofBool c := by
  have hlow := bitVec_eq_append 5 1 e
  have hhigh := bitVec_eq_append 4 1 (e.extractLsb' 1 5)
  rw [bitVec_eq_ofBool ((e.extractLsb' 1 5).extractLsb' 0 1)] at hhigh
  rw [bitVec_eq_ofBool (e.extractLsb' 0 1), hhigh] at hlow
  exact ⟨_, _, _, hlow⟩

theorem decodeKrakenBh_encode {ck : Bool} {i : Instr} {bits rest : Bits} (hi : (Ctx.krakenBh ck).admits i = true)
    (hbits : encode i = some bits) : decodeKrakenBh ck (bits ++ rest) = .ok i := by
  cases i with
  | krakenBhNormal x flag2 flag1 s =>
    cases hbits
    obtain ⟨hck, hs⟩ : (!ck) = true ∧ (s != 0x3FFFF#18) = true := Bool.and_eq_true_iff.1 hi
    have hfields := decodeKrakenBh_fields ck x flag2 flag1 s rest
    rw [if_pos (bne_iff_ne.1 hs), if_neg (by simpa using hck)] at hfields
    rw [← hfields]
    simp
  | krakenBhNormalCk x flag2 flag1 s c =>
    cases hbits
    obtain ⟨hck, hs⟩ : ck = true ∧ (s != 0x3FFFF#18) = true := Bool.and_eq_true_iff.1 hi
    have hfields := decodeKrakenBh_fields ck x flag2 flag1 s (bitsOf c ++ rest)
    rw [if_pos (bne_iff_ne.1 hs), if_pos hck, if_neg (by simp), takeField_bitsOf] at hfields
    rw [← hfields]
    simp
  | krakenBhFill k =>
    cases hbits
    have hfields := decodeKrakenBh_fields ck 0#4 false true 0x3FFFF#18 (bitsOf k ++ rest)
    rw [if_neg (by decide), if_pos (by decide), if_neg (by simp), takeField_bitsOf] at hfields
    rw [← hfields, show bitsOf 1#6 = bitsOf 0#4 ++ [false, true] from rfl]
    simp
  | krakenBhBadSentinel e =>
    cases hbits
    obtain ⟨x, flag2, flag1, rfl⟩ := bitVec6_split e
    have hfields := decodeKrakenBh_fields ck x flag2 flag1 0x3FFFF#18 rest
    rw [if_neg (by decide), if_neg (bne_iff_ne.1 hi)] at hfields
    rw [← hfields, bitsOf_append, bitsOf_append, bitsOf_ofBool, bitsOf_ofBool]
    simp
  | krakenBhTruncated => cases hbits
  | _ => cases hi

/-! ### LZNA-family block headers (R85, R86) -/

theorem decodeLznaBh_reads {ck : Bool} {bs : Bits} {i : Instr} (h : decodeLznaBh ck bs = .ok i) :
    ReadFrom (.lznaBh ck) bs i := by
  rcases h2 : takeBit bs with ⟨flag2, b1⟩
  rcases h1 : takeBit b1 with ⟨flag1, b2⟩
  rcases hs : takeField 14 b2 with ⟨size, b3⟩
  rcases hc : takeField 24 b3 with ⟨c, b4⟩
  rcases hk : takeField 8 b3 with ⟨k, b5⟩
  simp only [decodeLznaBh, h2, h1, hs, hc, hk] at h
  split at h
  next => cases h
  split at h
  next hsize =>
    cases ck with
    | false =>
      cases h
      exact .encoded (bne_iff_ne.2 hsize) rfl (.bit h2 (.bit h1 (.lastField hs)))
    | true =>
      simp only [if_true] at h
      split at h
      next => cases h
      next =>
        cases h
        exact .encoded (bne_iff_ne.2 hsize) rfl (.bit h2 (.bit h1 (.field hs (.lastField hc))))
  next hsize =>
    rw [ne_eq, Decidable.not_not] at hsize
    subst hsize
    have hword : Shows bs (flag2 :: flag1 :: bitsOf 0x3FFF#14) := .bit h2 (.bit h1 (.lastField hs))
    cases flag2 <;> cases flag1 <;> simp only at h
    case false.false => cases h; exact .encoded rfl rfl hword
    case false.true =>
      split at h
      next => cases h
      next =>
        cases h
        exact .encoded (bits := false :: true :: (bitsOf 0x3FFF#14 ++ bitsOf k)) rfl rfl
          (.bit h2 (.bit h1 (.field hs (.lastField hk))))
    case true.false => cases h; exact .encoded rfl rfl hword
    case true.true => cases h; exact .encoded rfl rfl hword

/-- R85: a normal header. -/
theorem decodeLznaBh_normal (ck flag2 flag1 : Bool) {s : BitVec 14} (hs : s ≠ 0x3FFF#14) (rest : Bits) :
    decodeLznaBh ck (flag2 :: flag1 :: (bitsOf s ++ rest)) =
      if ck then
        if rest.length < 24 then .error .truncatedBlockHeader
        else .ok (.lznaBhNormalCk flag2 flag1 s (takeField 24 rest).1)
      else .ok (.lznaBhNormal flag2 flag1 s) := by
  have hlen : (flag2 :: flag1 :: (bitsOf s ++ rest)).length = 16 + rest.length := by simp; omega
  have h40 : 16 + rest.length < 40 ↔ rest.length < 24 := by omega
  rw [decodeLznaBh, if_neg (by omega)]
  simp only [takeField_bitsOf, takeBit_cons, hlen, h40, if_pos hs]

/-- R86: the sentinel's four codes. -/
theorem decodeLznaBh_sentinel (ck flag2 flag1 : Bool) (rest : Bits) :
    decodeLznaBh ck (flag2 :: flag1 :: (bitsOf 0x3FFF#14 ++ rest)) =
      match flag2, flag1 with
      | false, false => .ok .lznaBhWholeMatch
      | false, true =>
        if rest.length < 8 then .error .truncatedBlockHeader else .ok (.lznaBhMemset (takeField 8 rest).1)
      | true, false => .ok .lznaBhRaw
      | true, true => .ok .lznaBhBad := by
  have hlen : (flag2 :: flag1 :: (bitsOf 0x3FFF#14 ++ rest)).length = 16 + rest.length := by simp; omega
  have h24 : 16 + rest.length < 24 ↔ rest.length < 8 := by omega
  rw [decodeLznaBh, if_neg (by omega)]
  cases flag2 <;> cases flag1 <;> simp [hlen, h24]

theorem decodeLznaBh_encode {ck : Bool} {i : Instr} {bits rest : Bits} (hi : (Ctx.lznaBh ck).admits i = true)
    (hbits : encode i = some bits) : decodeLznaBh ck (bits ++ rest) = .ok i := by
  cases i with
  | lznaBhNormal flag2 flag1 s =>
    cases hbits
    obtain ⟨hck, hs⟩ : (!ck) = true ∧ (s != 0x3FFF#14) = true := Bool.and_eq_true_iff.1 hi
    have hnormal := decodeLznaBh_normal ck flag2 flag1 (bne_iff_ne.1 hs) rest
    rwa [if_neg (by simpa using hck)] at hnormal
  | lznaBhNormalCk flag2 flag1 s c =>
    cases hbits
    obtain ⟨hck, hs⟩ : ck = true ∧ (s != 0x3FFF#14) = true := Bool.and_eq_true_iff.1 hi
    have hnormal := decodeLznaBh_normal ck flag2 flag1 (bne_iff_ne.1 hs) (bitsOf c ++ rest)
    rw [if_pos hck, if_neg (by simp), takeField_bitsOf] at hnormal
    rw [← hnormal]
    simp
  | lznaBhWholeMatch => cases hbits; exact decodeLznaBh_sentinel ck false false rest
  | lznaBhMemset k =>
    cases hbits
    have hmemset := decodeLznaBh_sentinel ck false true (bitsOf k ++ rest)
    simp only [takeField_bitsOf, List.length_append, bitsOf_length, show ¬ 8 + rest.length < 8 by omega, if_false] at hmemset
    rw [← hmemset, show bitsOf 0x7FFF#16 = false :: true :: bitsOf 0x3FFF#14 from rfl]
    simp
  | lznaBhRaw => cases hbits; exact decodeLznaBh_sentinel ck true false rest
  | lznaBhBad => cases hbits; exact decodeLznaBh_sentinel ck true true rest
  | _ => cases hi

/-! ### Sub-chunk headers (R87) -/

theorem notStored_iff (m : BitVec 4) (u : BitVec 19) (cnt : Nat) :
    (!(m == 0#4 && decide (cnt ≤ u.toNat))) = true ↔ ¬(m = 0#4 ∧ cnt ≤ u.toNat) := by
  rw [Bool.not_eq_true', ← Bool.not_eq_true, Bool.and_eq_true, beq_iff_eq, decide_eq_true_eq]

theorem decodeQuantum_reads {cnt : Nat} {bs : Bits} {i : Instr} (h : decodeQuantum cnt bs = .ok i) :
    ReadFrom (.quantum cnt) bs i := by
  rcases hl : takeBit bs with ⟨lz, b1⟩
  rcases hm : takeField 4 b1 with ⟨m, b2⟩
  rcases hu : takeField 19 b2 with ⟨u, b3⟩
  rcases hx : takeField 23 b1 with ⟨x, b4⟩
  simp only [decodeQuantum, hl, hm, hu, hx] at h
  split at h
  next => cases h
  cases lz with
  | false => cases h; exact .encoded rfl rfl (.bit hl (.lastField hx))
  | true =>
    have hword : Shows bs (true :: (bitsOf m ++ bitsOf u)) := .bit hl (.field hm (.lastField hu))
    simp only [if_true] at h
    split at h
    next hstored =>
      obtain ⟨rfl, hcnt⟩ := hstored
      cases h
      exact .encoded (Bool.and_eq_true_iff.2 ⟨decide_eq_true hcnt, rfl⟩) rfl hword
    next hlz =>
      cases h
      exact .encoded (Bool.and_eq_true_iff.2 ⟨(notStored_iff m u cnt).2 hlz, rfl⟩) rfl hword

/-- R87, R321: the header's decision, where bit 23 is set. -/
theorem decodeQuantum_fields (cnt : Nat) (m : BitVec 4) (u : BitVec 19) (rest : Bits) :
    decodeQuantum cnt (true :: (bitsOf m ++ (bitsOf u ++ rest))) =
      if m = 0#4 ∧ cnt ≤ u.toNat then .ok (.quantumStored u) else .ok (.quantumLz m u) := by
  rw [decodeQuantum, if_neg (by simp; omega)]
  simp only [takeBit_cons, takeField_bitsOf, if_true]

theorem decodeQuantum_encode {cnt : Nat} {i : Instr} {bits rest : Bits} (hi : (Ctx.quantum cnt).admits i = true)
    (hbits : encode i = some bits) : decodeQuantum cnt (bits ++ rest) = .ok i := by
  cases i with
  | quantumLz m u =>
    cases hbits
    have hlz := (notStored_iff m u cnt).1 (Bool.and_eq_true_iff.1 hi).1
    have hfields := decodeQuantum_fields cnt m u rest
    rw [if_neg hlz] at hfields
    rw [← hfields]
    simp
  | quantumStored u =>
    cases hbits
    have hcnt : decide (cnt ≤ u.toNat) = true := (Bool.and_eq_true_iff.1 hi).1
    have hfields := decodeQuantum_fields cnt 0#4 u rest
    rw [if_pos ⟨rfl, of_decide_eq_true hcnt⟩] at hfields
    rw [← hfields]
    simp
  | quantumEntropy x =>
    cases hbits
    rw [decodeQuantum, if_neg (by simp)]
    simp
  | _ => cases hi

/-! ### Chunk headers (R88 to R90) -/

/-- R90: a compressed chunk's two layouts, for the rows of one chunk type. -/
theorem decodeCompressed_reads {bs b1 b2 : Bits} {short : Bool} {type : BitVec 3} {total : Nat} {i : Instr}
    {mkShort : BitVec 10 → BitVec 10 → Instr} {mkLong : BitVec 18 → BitVec 18 → Instr}
    (hb : takeBit bs = (short, b1)) (ht : takeField 3 b1 = (type, b2))
    (hshort : ∀ d s, Ctx.chunk.admits (mkShort d s) = true ∧ encode (mkShort d s) = some (encodeShort type d s))
    (hlong : ∀ d s, Ctx.chunk.admits (mkLong d s) = true ∧ encode (mkLong d s) = some (encodeLong type d s))
    (h : decodeCompressed short total b2 mkShort mkLong = .ok i) : ReadFrom .chunk bs i := by
  cases short with
  | true =>
    rcases hd : takeField 10 b2 with ⟨d, b3⟩
    rcases hs : takeField 10 b3 with ⟨s, b4⟩
    simp only [decodeCompressed, if_true, hd, hs] at h
    split at h
    next => cases h
    next =>
      cases h
      refine .encoded (hshort d s).1 (hshort d s).2 ?_
      rw [encodeShort, List.append_assoc]
      exact .bit hb (.field ht (.field hd (.lastField hs)))
  | false =>
    rcases hd : takeField 18 b2 with ⟨d, b3⟩
    rcases hs : takeField 18 b3 with ⟨s, b4⟩
    simp only [decodeCompressed, Bool.false_eq_true, if_false, hd, hs] at h
    split at h
    next => cases h
    next =>
      cases h
      refine .encoded (hlong d s).1 (hlong d s).2 ?_
      rw [encodeLong, List.append_assoc]
      exact .bit hb (.field ht (.field hd (.lastField hs)))

theorem bitVec3_cases (t : BitVec 3) :
    t = 0#3 ∨ t = 1#3 ∨ t = 2#3 ∨ t = 3#3 ∨ t = 4#3 ∨ t = 5#3 ∨ t = 6#3 ∨ t = 7#3 := by
  revert t
  decide

theorem decodeChunk_reads {bs : Bits} {i : Instr} (h : decodeChunk bs = .ok i) : ReadFrom .chunk bs i := by
  rcases hb : takeBit bs with ⟨short, b1⟩
  rcases ht : takeField 3 b1 with ⟨type, b2⟩
  rcases hz : takeField 12 b2 with ⟨z, b3⟩
  rcases hr : takeField 2 b2 with ⟨r, b4⟩
  rcases hs : takeField 18 b4 with ⟨s, b5⟩
  rcases hx : takeField 4 b2 with ⟨x, b6⟩
  simp only [decodeChunk, hb, ht, hz, hr, hs, hx] at h
  split at h
  next => cases h
  rcases bitVec3_cases type with rfl | rfl | rfl | rfl | rfl | rfl | rfl | rfl
  · rw [if_pos rfl] at h
    cases short with
    | true => cases h; exact .encoded rfl rfl (.bit hb (.field ht (.lastField hz)))
    | false =>
      have hlong : Shows bs (false :: (bitsOf (0#3) ++ bitsOf r ++ bitsOf s)) := by
        rw [List.append_assoc]
        exact .bit hb (.field ht (.field hr (.lastField hs)))
      simp only [Bool.false_eq_true, if_false] at h
      split at h
      next => cases h
      split at h
      next hzero => cases h; subst hzero; exact .encoded rfl rfl hlong
      next hbad => cases h; exact .encoded (bne_iff_ne.2 hbad) rfl hlong
  · exact decodeCompressed_reads hb ht (fun d s => ⟨rfl, rfl⟩) (fun d s => ⟨rfl, rfl⟩) h
  · exact decodeCompressed_reads hb ht (fun d s => ⟨rfl, rfl⟩) (fun d s => ⟨rfl, rfl⟩) h
  · exact decodeCompressed_reads hb ht (fun d s => ⟨rfl, rfl⟩) (fun d s => ⟨rfl, rfl⟩) h
  · exact decodeCompressed_reads hb ht (fun d s => ⟨rfl, rfl⟩) (fun d s => ⟨rfl, rfl⟩) h
  · exact decodeCompressed_reads hb ht (fun d s => ⟨rfl, rfl⟩) (fun d s => ⟨rfl, rfl⟩) h
  · cases h; exact .encoded rfl rfl (.bit hb (.field ht (.lastField hx)))
  · cases h; exact .encoded rfl rfl (.bit hb (.field ht (.lastField hx)))

theorem decodeCompressed_short (total : Nat) (htotal : 24 ≤ total) (d s : BitVec 10) (rest : Bits)
    (mkShort : BitVec 10 → BitVec 10 → Instr) (mkLong : BitVec 18 → BitVec 18 → Instr) :
    decodeCompressed true total (bitsOf d ++ (bitsOf s ++ rest)) mkShort mkLong = .ok (mkShort d s) := by
  simp only [decodeCompressed, if_true, if_neg (Nat.not_lt.2 htotal), takeField_bitsOf]

theorem decodeCompressed_long (total : Nat) (htotal : 40 ≤ total) (d s : BitVec 18) (rest : Bits)
    (mkShort : BitVec 10 → BitVec 10 → Instr) (mkLong : BitVec 18 → BitVec 18 → Instr) :
    decodeCompressed false total (bitsOf d ++ (bitsOf s ++ rest)) mkShort mkLong = .ok (mkLong d s) := by
  simp only [decodeCompressed, Bool.false_eq_true, if_false, if_neg (Nat.not_lt.2 htotal), takeField_bitsOf]

/-- R88: the chunk's decision, by its type. -/
theorem decodeChunk_fields (short : Bool) (type : BitVec 3) (rest : Bits) (hrest : 12 ≤ rest.length) :
    decodeChunk (short :: (bitsOf type ++ rest)) =
      if type = 0#3 then
        if short then .ok (.chunkCopyShort (takeField 12 rest).1)
        else if 4 + rest.length < 24 then .error .truncatedChunkHeader
        else if (takeField 2 rest).1 = 0#2 then .ok (.chunkCopyLong (takeField 18 (takeField 2 rest).2).1)
        else .ok (.chunkCopyLongBad (takeField 2 rest).1 (takeField 18 (takeField 2 rest).2).1)
      else if type = 1#3 then decodeCompressed short (4 + rest.length) rest .chunkTansShort .chunkTansLong
      else if type = 2#3 then decodeCompressed short (4 + rest.length) rest .chunkHuff2Short .chunkHuff2Long
      else if type = 3#3 then decodeCompressed short (4 + rest.length) rest .chunkRleShort .chunkRleLong
      else if type = 4#3 then decodeCompressed short (4 + rest.length) rest .chunkHuff4Short .chunkHuff4Long
      else if type = 5#3 then decodeCompressed short (4 + rest.length) rest .chunkRecursiveShort .chunkRecursiveLong
      else if type = 6#3 then .ok (.chunkType6 short (takeField 4 rest).1)
      else .ok (.chunkType7 short (takeField 4 rest).1) := by
  have hlen : (short :: (bitsOf type ++ rest)).length = 4 + rest.length := by simp; omega
  rw [decodeChunk, if_neg (by omega)]
  simp only [takeBit_cons, takeField_bitsOf, hlen]

/-- R90: a short compressed chunk header of each type. -/
theorem decodeChunk_short {type : BitVec 3} {mk : BitVec 10 → BitVec 10 → Instr}
    (h : (type = 1#3 ∧ mk = .chunkTansShort) ∨ (type = 2#3 ∧ mk = .chunkHuff2Short) ∨ (type = 3#3 ∧ mk = .chunkRleShort) ∨
      (type = 4#3 ∧ mk = .chunkHuff4Short) ∨ (type = 5#3 ∧ mk = .chunkRecursiveShort)) (d s : BitVec 10) (rest : Bits) :
    decodeChunk (encodeShort type d s ++ rest) = .ok (mk d s) := by
  have hfields := decodeChunk_fields true type (bitsOf d ++ (bitsOf s ++ rest)) (by simp; omega)
  have hbits : encodeShort type d s ++ rest = true :: (bitsOf type ++ (bitsOf d ++ (bitsOf s ++ rest))) := by
    simp [encodeShort]
  rw [hbits, hfields]
  have htotal : 24 ≤ 4 + (bitsOf d ++ (bitsOf s ++ rest)).length := by simp; omega
  rcases h with ⟨rfl, rfl⟩ | ⟨rfl, rfl⟩ | ⟨rfl, rfl⟩ | ⟨rfl, rfl⟩ | ⟨rfl, rfl⟩
  · exact decodeCompressed_short (mkLong := .chunkTansLong) _ htotal ..
  · exact decodeCompressed_short (mkLong := .chunkHuff2Long) _ htotal ..
  · exact decodeCompressed_short (mkLong := .chunkRleLong) _ htotal ..
  · exact decodeCompressed_short (mkLong := .chunkHuff4Long) _ htotal ..
  · exact decodeCompressed_short (mkLong := .chunkRecursiveLong) _ htotal ..

/-- R90: a long compressed chunk header of each type. -/
theorem decodeChunk_long {type : BitVec 3} {mk : BitVec 18 → BitVec 18 → Instr}
    (h : (type = 1#3 ∧ mk = .chunkTansLong) ∨ (type = 2#3 ∧ mk = .chunkHuff2Long) ∨ (type = 3#3 ∧ mk = .chunkRleLong) ∨
      (type = 4#3 ∧ mk = .chunkHuff4Long) ∨ (type = 5#3 ∧ mk = .chunkRecursiveLong)) (d s : BitVec 18) (rest : Bits) :
    decodeChunk (encodeLong type d s ++ rest) = .ok (mk d s) := by
  have hfields := decodeChunk_fields false type (bitsOf d ++ (bitsOf s ++ rest)) (by simp; omega)
  have hbits : encodeLong type d s ++ rest = false :: (bitsOf type ++ (bitsOf d ++ (bitsOf s ++ rest))) := by
    simp [encodeLong]
  rw [hbits, hfields]
  have htotal : 40 ≤ 4 + (bitsOf d ++ (bitsOf s ++ rest)).length := by simp; omega
  rcases h with ⟨rfl, rfl⟩ | ⟨rfl, rfl⟩ | ⟨rfl, rfl⟩ | ⟨rfl, rfl⟩ | ⟨rfl, rfl⟩
  · exact decodeCompressed_long (mkShort := .chunkTansShort) _ htotal ..
  · exact decodeCompressed_long (mkShort := .chunkHuff2Short) _ htotal ..
  · exact decodeCompressed_long (mkShort := .chunkRleShort) _ htotal ..
  · exact decodeCompressed_long (mkShort := .chunkHuff4Short) _ htotal ..
  · exact decodeCompressed_long (mkShort := .chunkRecursiveShort) _ htotal ..

theorem decodeChunk_encode {i : Instr} {bits rest : Bits} (hi : Ctx.chunk.admits i = true) (hbits : encode i = some bits)
    (hlen : 16 ≤ bits.length + rest.length) : decodeChunk (bits ++ rest) = .ok i := by
  cases i with
  | chunkCopyShort s =>
    cases hbits
    have hfields := decodeChunk_fields true 0#3 (bitsOf s ++ rest) (by simp)
    rw [if_pos rfl, if_pos rfl, takeField_bitsOf] at hfields
    rw [← hfields]
    simp
  | chunkCopyLong s =>
    cases hbits
    have hfields := decodeChunk_fields false 0#3 (bitsOf 0#2 ++ (bitsOf s ++ rest)) (by simp; omega)
    rw [if_pos rfl, if_neg (by simp), if_neg (by simp; omega), takeField_bitsOf, takeField_bitsOf, if_pos rfl] at hfields
    rw [← hfields]
    simp
  | chunkCopyLongBad r s =>
    cases hbits
    have hfields := decodeChunk_fields false 0#3 (bitsOf r ++ (bitsOf s ++ rest)) (by simp; omega)
    rw [if_pos rfl, if_neg (by simp), if_neg (by simp; omega), takeField_bitsOf, takeField_bitsOf,
      if_neg (bne_iff_ne.1 hi)] at hfields
    rw [← hfields]
    simp
  | chunkTansShort d s => cases hbits; exact decodeChunk_short (.inl ⟨rfl, rfl⟩) d s rest
  | chunkTansLong d s => cases hbits; exact decodeChunk_long (.inl ⟨rfl, rfl⟩) d s rest
  | chunkHuff2Short d s => cases hbits; exact decodeChunk_short (.inr (.inl ⟨rfl, rfl⟩)) d s rest
  | chunkHuff2Long d s => cases hbits; exact decodeChunk_long (.inr (.inl ⟨rfl, rfl⟩)) d s rest
  | chunkRleShort d s => cases hbits; exact decodeChunk_short (.inr (.inr (.inl ⟨rfl, rfl⟩))) d s rest
  | chunkRleLong d s => cases hbits; exact decodeChunk_long (.inr (.inr (.inl ⟨rfl, rfl⟩))) d s rest
  | chunkHuff4Short d s => cases hbits; exact decodeChunk_short (.inr (.inr (.inr (.inl ⟨rfl, rfl⟩)))) d s rest
  | chunkHuff4Long d s => cases hbits; exact decodeChunk_long (.inr (.inr (.inr (.inl ⟨rfl, rfl⟩)))) d s rest
  | chunkRecursiveShort d s => cases hbits; exact decodeChunk_short (.inr (.inr (.inr (.inr ⟨rfl, rfl⟩)))) d s rest
  | chunkRecursiveLong d s => cases hbits; exact decodeChunk_long (.inr (.inr (.inr (.inr ⟨rfl, rfl⟩)))) d s rest
  | chunkType6 l x =>
    cases hbits
    have hfields := decodeChunk_fields l 6#3 (bitsOf x ++ rest) (by simp at hlen ⊢; omega)
    rw [takeField_bitsOf] at hfields
    simpa using hfields
  | chunkType7 l x =>
    cases hbits
    have hfields := decodeChunk_fields l 7#3 (bitsOf x ++ rest) (by simp at hlen ⊢; omega)
    rw [takeField_bitsOf] at hfields
    simpa using hfields
  | _ => cases hi

end Sys2Proof
end

section
namespace Sys2Proof

/-! ### Code lengths (R91 to R93) -/

theorem decodeSelector_reads (bs : Bits) : ReadFrom .selector bs (decodeSelector bs) := by
  rcases h0 : takeBit bs with ⟨b0, r0⟩
  rcases h1 : takeBit r0 with ⟨b1, r1⟩
  have hword : Shows bs [b0, b1] := .bit h0 (.bit h1 (.nil _))
  simp only [decodeSelector, h0, h1]
  cases b0 <;> cases b1 <;> exact .encoded rfl rfl hword

theorem decodeSelector_encode {i : Instr} {bits rest : Bits} (hi : Ctx.selector.admits i = true)
    (hbits : encode i = some bits) : decodeSelector (bits ++ rest) = i := by
  cases i with
  | entropySelGamma => cases hbits; rfl
  | entropySelSparse => cases hbits; rfl
  | entropySelGolombRice => cases hbits; rfl
  | entropySelBad => cases hbits; rfl
  | _ => cases hi

/-- R92: the length fields of a sparse stream have `w` bits. -/
theorem decodePairs_spec {w : Nat} (hw : w ≤ 4) (n : Nat) (bs : Bits) :
    (decodePairs w n bs).length = n ∧ (∀ x ∈ decodePairs w n bs, x.2.toNat < 2 ^ w) ∧
      Shows bs (encodePairs w (decodePairs w n bs)) := by
  induction n generalizing bs with
  | zero => exact ⟨rfl, List.forall_mem_nil _, Shows.nil _⟩
  | succ n ih =>
    rcases hs : takeField 8 bs with ⟨s, b1⟩
    rcases hl : takeNat w 0 b1 with ⟨l, b2⟩
    have hlt : l < 2 ^ w := by simpa [hl] using takeNat_lt w b1
    have hle : 2 ^ w ≤ 2 ^ 4 := Nat.pow_le_pow_right (by omega) hw
    have htoNat : (BitVec.ofNat 4 l).toNat = l := by rw [BitVec.toNat_ofNat, Nat.mod_eq_of_lt (by omega)]
    obtain ⟨hlen, hall, hshows⟩ := ih b2
    simp only [decodePairs, hs, hl, List.length_cons, hlen, List.mem_cons, forall_eq_or_imp, htoNat, encodePairs,
      List.append_assoc, true_and]
    exact ⟨⟨hlt, hall⟩, .field hs (.number hl hshows)⟩

theorem decodePairs_encodePairs {w : Nat} (ps : List (Byte × BitVec 4)) (h : ∀ x ∈ ps, x.2.toNat < 2 ^ w) (rest : Bits) :
    decodePairs w ps.length (encodePairs w ps ++ rest) = ps := by
  induction ps with
  | nil => rfl
  | cons p ps ih =>
    obtain ⟨s, l⟩ := p
    simp only [List.mem_cons, forall_eq_or_imp] at h
    simp only [encodePairs, List.append_assoc, List.length_cons, decodePairs, takeField_bitsOf, takeNat_bitsOfNat,
      Nat.mod_eq_of_lt h.1, Nat.zero_mul, Nat.zero_add, BitVec.ofNat_toNat, BitVec.setWidth_eq, ih h.2]

theorem sparseMany_wf_iff (c : Byte) (w : BitVec 3) (pairs : List (Byte × BitVec 4)) :
    (Instr.sparseMany c w pairs).wf = true ↔
      2 ≤ c.toNat ∧ (w.toNat ≤ 4 ∧ pairs.length = c.toNat ∧ (∀ x ∈ pairs, x.2.toNat < 2 ^ w.toNat) ∨
        4 < w.toNat ∧ pairs = []) := by
  rw [Instr.wf]
  by_cases hw : w.toNat ≤ 4
  · simp [hw, show ¬ 4 < w.toNat by omega]
  · simp [hw, show 4 < w.toNat by omega]

theorem decodeSparse_reads (bs : Bits) : ReadFrom .sparse bs (decodeSparse bs) := by
  rcases hc : takeField 8 bs with ⟨c, b1⟩
  rcases hs : takeField 8 b1 with ⟨s, b2⟩
  rcases hw : takeField 3 b1 with ⟨w, b3⟩
  simp only [decodeSparse, hc, hs, hw]
  split
  next hzero => subst hzero; exact .encoded rfl rfl (.lastField hc)
  next hzero =>
  split
  next hone => subst hone; exact .encoded rfl rfl (.field hc (.lastField hs))
  next hone =>
    have hcount : 2 ≤ c.toNat := by
      rw [← BitVec.toNat_inj] at hzero hone
      simp only [BitVec.toNat_ofNat] at hzero hone
      omega
    by_cases hwidth : w.toNat ≤ 4
    · obtain ⟨hlen, hall, hshows⟩ := decodePairs_spec hwidth c.toNat b3
      rw [if_pos hwidth]
      refine .encoded (bits := bitsOf c ++ bitsOf w ++ encodePairs w.toNat (decodePairs w.toNat c.toNat b3))
        ((sparseMany_wf_iff _ _ _).2 ⟨hcount, .inl ⟨hwidth, hlen, hall⟩⟩) rfl ?_
      rw [List.append_assoc]
      exact .field hc (.field hw hshows)
    · rw [if_neg hwidth]
      refine .encoded (bits := bitsOf c ++ bitsOf w ++ [])
        ((sparseMany_wf_iff _ _ _).2 ⟨hcount, .inr ⟨by omega, rfl⟩⟩) rfl ?_
      rw [List.append_assoc]
      exact .field hc (.field hw (.nil _))

theorem decodeSparse_encode {i : Instr} {bits rest : Bits} (hi : Ctx.sparse.admits i = true)
    (hbits : encode i = some bits) : decodeSparse (bits ++ rest) = i := by
  cases i with
  | sparseZero => cases hbits; simp [decodeSparse]
  | sparseOne s => cases hbits; simp [decodeSparse]
  | sparseMany c w pairs =>
    cases hbits
    obtain ⟨hcount, hpairs⟩ := (sparseMany_wf_iff c w pairs).1 hi
    have hzero : c ≠ 0#8 := fun h => by subst h; simp at hcount
    have hone : c ≠ 1#8 := fun h => by subst h; simp at hcount
    simp only [decodeSparse, List.append_assoc, takeField_bitsOf, if_neg hzero, if_neg hone]
    rcases hpairs with ⟨hw, hlen, hall⟩ | ⟨hw, rfl⟩
    · rw [if_pos hw, ← hlen, decodePairs_encodePairs pairs hall]
    · rw [if_neg (by omega)]
  | _ => cases hi

/-! ### Integer codes (R101, R102, R105) and table bytes (R95 to R99) -/

theorem decodeDistance_reads (c : CSel) (cb : Byte) (bs : Bits) : ReadFrom (.distance c cb) bs (decodeDistance c cb bs) := by
  rcases hx : takeNat (distanceBits cb) 0 bs with ⟨x, b1⟩
  rcases hy : takeField 12 b1 with ⟨y, b2⟩
  have hlt : x < 2 ^ distanceBits cb := by simpa [hx] using takeNat_lt (distanceBits cb) bs
  have hself : (c == c && cb == cb) = true := by simp
  simp only [decodeDistance, hx, hy]
  split
  next hsmall =>
    refine .encoded (Bool.and_eq_true_iff.2 ⟨hself, Bool.and_eq_true_iff.2 ⟨decide_eq_true hsmall, decide_eq_true hlt⟩⟩) rfl ?_
    simpa using Shows.number hx (.nil _)
  next hlarge =>
    exact .encoded (Bool.and_eq_true_iff.2 ⟨hself, Bool.and_eq_true_iff.2 ⟨decide_eq_true (Nat.not_lt.1 hlarge),
      decide_eq_true hlt⟩⟩) rfl (.number hx (.lastField hy))

theorem decodeDistance_encode {c : CSel} {cb : Byte} {i : Instr} {bits rest : Bits}
    (hi : (Ctx.distance c cb).admits i = true) (hbits : encode i = some bits) :
    decodeDistance c cb (bits ++ rest) = i := by
  cases i with
  | distanceSmall c' cb' x =>
    cases hbits
    obtain ⟨hctx, hwf⟩ : (c == c' && cb == cb') = true ∧ _ := Bool.and_eq_true_iff.1 hi
    obtain ⟨hsmall, hlt⟩ : decide (cb'.toNat < 0xF0) = true ∧ decide (x < 2 ^ distanceBits cb') = true :=
      Bool.and_eq_true_iff.1 hwf
    simp only [Bool.and_eq_true, beq_iff_eq] at hctx
    obtain ⟨rfl, rfl⟩ := hctx
    simp only [decodeDistance, takeNat_bitsOfNat, if_pos (of_decide_eq_true hsmall), Nat.mod_eq_of_lt (of_decide_eq_true hlt),
      Nat.zero_mul, Nat.zero_add]
  | distanceLarge c' cb' x y =>
    cases hbits
    obtain ⟨hctx, hwf⟩ : (c == c' && cb == cb') = true ∧ _ := Bool.and_eq_true_iff.1 hi
    obtain ⟨hlarge, hlt⟩ : decide (0xF0 ≤ cb'.toNat) = true ∧ decide (x < 2 ^ distanceBits cb') = true :=
      Bool.and_eq_true_iff.1 hwf
    simp only [Bool.and_eq_true, beq_iff_eq] at hctx
    obtain ⟨rfl, rfl⟩ := hctx
    simp only [decodeDistance, List.append_assoc, takeNat_bitsOfNat, takeField_bitsOf,
      if_neg (Nat.not_lt.2 (of_decide_eq_true hlarge)), Nat.mod_eq_of_lt (of_decide_eq_true hlt), Nat.zero_mul, Nat.zero_add]
  | _ => cases hi

theorem decodeOffset_reads (scaled : Bool) (bs : Bits) : ReadFrom (.lzOffset scaled) bs (decodeOffset scaled bs) := by
  cases scaled with
  | true =>
    rcases hk : takeField 5 bs with ⟨k, b1⟩
    rcases hl : takeField 3 b1 with ⟨l, b2⟩
    simp only [decodeOffset, if_true, hk, hl]
    split
    next hle => exact .encoded (decide_eq_true hle) rfl (.field hk (.lastField hl))
    next hgt => exact .encoded (decide_eq_true (by omega)) rfl (.field hk (.lastField hl))
  | false =>
    rcases hh : takeField 4 bs with ⟨h, b1⟩
    rcases hl : takeField 4 b1 with ⟨l, b2⟩
    simp only [decodeOffset, Bool.false_eq_true, if_false, hh, hl]
    split
    next hlarge => subst hlarge; exact .encoded rfl rfl (.field hh (.lastField hl))
    next hsmall => exact .encoded (bne_iff_ne.2 hsmall) rfl (.field hh (.lastField hl))

theorem decodeOffset_encode {scaled : Bool} {i : Instr} {bits rest : Bits}
    (hi : (Ctx.lzOffset scaled).admits i = true) (hbits : encode i = some bits) :
    decodeOffset scaled (bits ++ rest) = i := by
  cases i with
  | lzOffsetTradSmall h l =>
    cases hbits
    obtain ⟨hscaled, hh⟩ : (!scaled) = true ∧ (h != 0xF#4) = true := Bool.and_eq_true_iff.1 hi
    simp only [decodeOffset, show scaled = false by simpa using hscaled, Bool.false_eq_true, if_false, List.append_assoc,
      takeField_bitsOf, if_neg (bne_iff_ne.1 hh)]
  | lzOffsetTradLarge n =>
    cases hbits
    obtain ⟨hscaled, -⟩ : (!scaled) = true ∧ _ := Bool.and_eq_true_iff.1 hi
    simp only [decodeOffset, show scaled = false by simpa using hscaled, Bool.false_eq_true, if_false, List.append_assoc,
      takeField_bitsOf, if_true]
  | lzOffsetScaled k l =>
    cases hbits
    obtain ⟨hscaled, hk⟩ : scaled = true ∧ decide (k.toNat ≤ 26) = true := Bool.and_eq_true_iff.1 hi
    simp only [decodeOffset, hscaled, if_true, List.append_assoc, takeField_bitsOf, if_pos (of_decide_eq_true hk)]
  | lzOffsetEarlyStop k l =>
    cases hbits
    obtain ⟨hscaled, hk⟩ : scaled = true ∧ decide (27 ≤ k.toNat) = true := Bool.and_eq_true_iff.1 hi
    simp only [decodeOffset, hscaled, if_true, List.append_assoc, takeField_bitsOf,
      if_neg (Nat.not_le.2 (of_decide_eq_true hk))]
  | _ => cases hi

theorem decodeByte_ok {bs : Bits} {f : Bits → Instr} {i : Instr} (h : decodeByte bs f = .ok i) : f bs = i := by
  rw [decodeByte] at h
  split at h
  next => cases h
  next => cases h; rfl

theorem decodeByte_eq {bits rest : Bits} (f : Bits → Instr) (hlen : bits.length = 8) :
    decodeByte (bits ++ rest) f = .ok (f (bits ++ rest)) := by
  rw [decodeByte, if_neg (by rw [List.length_append]; omega)]

/-- R95: the flag byte. -/
def decodeFlag (bs : Bits) : Instr :=
  if (takeBit bs).1 then .lzFlagBad (takeField 7 (takeBit bs).2).1 else .lzFlagOk (takeField 7 (takeBit bs).2).1

/-- R96: the scaling byte. -/
def decodeScaling (bs : Bits) : Instr :=
  if (takeBit bs).1 then .lzScalingPresent (takeField 7 (takeBit bs).2).1
  else .lzScalingAbsent (takeField 7 (takeBit bs).2).1

/-- R99: a packed length. -/
def decodeLength (bs : Bits) : Instr :=
  if (takeField 8 bs).1 = 0xFF#8 then .lzLengthEscape else .lzLengthByte (takeField 8 bs).1

theorem decode_lzFlag (bs : Bits) : decode .lzFlag bs = decodeByte bs decodeFlag := rfl
theorem decode_lzScaling (bs : Bits) : decode .lzScaling bs = decodeByte bs decodeScaling := rfl
theorem decode_lzLength (bs : Bits) : decode .lzLength bs = decodeByte bs decodeLength := rfl

theorem decodeFlag_reads (bs : Bits) : ReadFrom .lzFlag bs (decodeFlag bs) := by
  rcases hb : takeBit bs with ⟨b, b1⟩
  rw [decodeFlag, hb]
  cases b
  · exact .encoded rfl rfl (.bit hb (.lastField rfl))
  · exact .encoded rfl rfl (.bit hb (.lastField rfl))

theorem decodeScaling_reads (bs : Bits) : ReadFrom .lzScaling bs (decodeScaling bs) := by
  rcases hb : takeBit bs with ⟨b, b1⟩
  rw [decodeScaling, hb]
  cases b
  · exact .encoded rfl rfl (.bit hb (.lastField rfl))
  · exact .encoded rfl rfl (.bit hb (.lastField rfl))

theorem decodeLength_reads (bs : Bits) : ReadFrom .lzLength bs (decodeLength bs) := by
  rcases hv : takeField 8 bs with ⟨v, b1⟩
  rw [decodeLength, hv]
  split
  next hescape => obtain rfl := hescape; exact .encoded rfl rfl (.lastField hv)
  next hlength => exact .encoded (bne_iff_ne.2 hlength) rfl (.lastField hv)

/-! ### The decoder (R80) -/

/-- A context whose element is a code of one row. -/
theorem ReadFrom.code {ctx : Ctx} {w : Nat → Nat} {bs : Bits} {i : Nat → Nat → Instr}
    (hadmits : ∀ n b, wfCode n (w n) b = true → ctx.admits (i n b) = true)
    (hencode : ∀ n b, encode (i n b) = some (zerosOneBits n (w n) b)) :
    ReadFrom ctx bs (i (decodeCode w bs).1 (decodeCode w bs).2) := by
  obtain ⟨hwf, hshows⟩ := decodeCode_spec (w := w) (bs := bs) rfl
  exact .encoded (hadmits _ _ hwf) (hencode _ _) hshows

/-- What the decoder answers is what the string shows. -/
theorem decode_reads {ctx : Ctx} {i : Instr} {bs : Bits} (hwidth : ∀ c n, ctx = .moreThan24 c n → n ≤ 26)
    (h : decode ctx bs = .ok i) : ReadFrom ctx bs i := by
  cases ctx with
  | ctrl => exact decodeCtrl_reads h
  | streamHeader => exact decodeStreamHeader_reads h
  | krakenBh ck => exact decodeKrakenBh_reads h
  | lznaBh ck => exact decodeLznaBh_reads h
  | quantum cnt => exact decodeQuantum_reads h
  | chunk => exact decodeChunk_reads h
  | selector => cases h; exact decodeSelector_reads bs
  | sparse => cases h; exact decodeSparse_reads bs
  | gammaHeader =>
    rw [decode_gammaHeader] at h
    cases h
    exact .encoded rfl rfl (.field rfl (.bit rfl (.nil _)))
  | gammaZero => cases h; exact .code (ctx := .gammaZero) (w := fun n => n + 1) (i := .gammaZeroRun) (fun _ _ h => h) (fun _ _ => rfl)
  | gammaRun => cases h; exact .code (ctx := .gammaRun) (w := fun n => n + 1) (i := .gammaRunCount) (fun _ _ h => h) (fun _ _ => rfl)
  | residual f =>
    cases h
    exact .code (ctx := .residual f) (w := fun _ => f.toNat) (i := .gammaResidual f)
      (fun _ _ h => Bool.and_eq_true_iff.2 ⟨beq_self_eq_true f, h⟩) (fun _ _ => rfl)
  | gammaCode c =>
    cases h
    exact .code (ctx := .gammaCode c) (w := fun n => n + 1) (i := .gammaCode c)
      (fun _ _ h => Bool.and_eq_true_iff.2 ⟨beq_self_eq_true c, h⟩) (fun _ _ => rfl)
  | distance c cb => cases h; exact decodeDistance_reads c cb bs
  | lengthCode c =>
    cases h
    exact .code (ctx := .lengthCode c) (w := fun n => n + 6) (i := .lengthCode c)
      (fun _ _ h => Bool.and_eq_true_iff.2 ⟨beq_self_eq_true c, h⟩) (fun _ _ => rfl)
  | sideCount => cases h; exact .code (ctx := .sideCount) (w := fun n => n) (i := .sideCountCode) (fun _ _ h => h) (fun _ _ => rfl)
  | moreThan24 c n =>
    cases h
    have hself : (c == c && n == n) = true := by simp
    refine .encoded (Bool.and_eq_true_iff.2 ⟨hself, Bool.and_eq_true_iff.2 ⟨decide_eq_true (hwidth c n rfl),
      decide_eq_true (takeNat_lt n bs)⟩⟩) rfl ?_
    simpa using Shows.number rfl (.nil _)
  | lzFlag =>
    obtain rfl := decodeByte_ok (decode_lzFlag bs ▸ h)
    exact decodeFlag_reads bs
  | lzScaling =>
    obtain rfl := decodeByte_ok (decode_lzScaling bs ▸ h)
    exact decodeScaling_reads bs
  | lzOffset scaled =>
    obtain rfl := decodeByte_ok h
    exact decodeOffset_reads scaled bs
  | lzLength =>
    obtain rfl := decodeByte_ok (decode_lzLength bs ▸ h)
    exact decodeLength_reads bs

/-- Settles O9: the string shows the encoding, zeros standing after its end. -/
theorem encodeDecode : Obligations.EncodeDecode := by
  intro ctx i bs hwidth h
  obtain ⟨hadmits, hshows⟩ := decode_reads hwidth h
  exact ⟨hadmits, fun bits hbits => (hshows bits hbits).isPrefix⟩

/-- Settles O8: each decoder reads its fields back in the order in which they were written. -/
theorem decodeEncode : Obligations.DecodeEncode := by
  intro ctx i bits rest hi hbits hlen
  cases ctx with
  | ctrl => exact decodeCtrl_encode hi hbits
  | streamHeader => exact decodeStreamHeader_encode hi hbits
  | krakenBh ck => exact decodeKrakenBh_encode hi hbits
  | lznaBh ck => exact decodeLznaBh_encode hi hbits
  | quantum cnt => exact decodeQuantum_encode hi hbits
  | chunk => exact decodeChunk_encode hi hbits (hlen rfl)
  | selector => exact congrArg Except.ok (decodeSelector_encode hi hbits)
  | sparse => exact congrArg Except.ok (decodeSparse_encode hi hbits)
  | gammaHeader =>
    cases i with
    | gammaHeader f k => cases hbits; simp
    | _ => cases hi
  | gammaZero =>
    cases i with
    | gammaZeroRun n b => cases hbits; rw [decode_gammaZero, decodeCode_zerosOneBits (w := fun n => n + 1) hi]
    | _ => cases hi
  | gammaRun =>
    cases i with
    | gammaRunCount n b => cases hbits; rw [decode_gammaRun, decodeCode_zerosOneBits (w := fun n => n + 1) hi]
    | _ => cases hi
  | residual f =>
    cases i with
    | gammaResidual f' q b =>
      cases hbits
      obtain ⟨hf, hwf⟩ : (f == f') = true ∧ _ := Bool.and_eq_true_iff.1 hi
      obtain rfl := beq_iff_eq.1 hf
      rw [decode_residual, decodeCode_zerosOneBits (w := fun _ => f.toNat) hwf]
    | _ => cases hi
  | gammaCode c =>
    cases i with
    | gammaCode c' n b =>
      cases hbits
      obtain ⟨hc, hwf⟩ : (c == c') = true ∧ _ := Bool.and_eq_true_iff.1 hi
      obtain rfl := beq_iff_eq.1 hc
      rw [decode_gammaCode, decodeCode_zerosOneBits (w := fun n => n + 1) hwf]
    | _ => cases hi
  | distance c cb => exact congrArg Except.ok (decodeDistance_encode hi hbits)
  | lengthCode c =>
    cases i with
    | lengthCode c' n b =>
      cases hbits
      obtain ⟨hc, hwf⟩ : (c == c') = true ∧ _ := Bool.and_eq_true_iff.1 hi
      obtain rfl := beq_iff_eq.1 hc
      rw [decode_lengthCode, decodeCode_zerosOneBits (w := fun n => n + 6) hwf]
    | _ => cases hi
  | sideCount =>
    cases i with
    | sideCountCode n b => cases hbits; rw [decode_sideCount, decodeCode_zerosOneBits (w := fun n => n) hi]
    | _ => cases hi
  | moreThan24 c n =>
    cases i with
    | moreThan24 c' n' b =>
      cases hbits
      obtain ⟨hctx, hwf⟩ : (c == c' && n == n') = true ∧ _ := Bool.and_eq_true_iff.1 hi
      obtain ⟨-, hlt⟩ : _ ∧ decide (b < 2 ^ n') = true := Bool.and_eq_true_iff.1 hwf
      simp only [Bool.and_eq_true, beq_iff_eq] at hctx
      obtain ⟨rfl, rfl⟩ := hctx
      show Except.ok (Instr.moreThan24 c n (takeNat n 0 (bitsOfNat n b ++ rest)).1) = _
      rw [takeNat_bitsOfNat, Nat.mod_eq_of_lt (of_decide_eq_true hlt), Nat.zero_mul, Nat.zero_add]
    | _ => cases hi
  | lzFlag =>
    cases i with
    | lzFlagOk x => cases hbits; rw [decode_lzFlag, decodeByte_eq _ rfl]; simp [decodeFlag]
    | lzFlagBad x => cases hbits; rw [decode_lzFlag, decodeByte_eq _ rfl]; simp [decodeFlag]
    | _ => cases hi
  | lzScaling =>
    cases i with
    | lzScalingPresent s => cases hbits; rw [decode_lzScaling, decodeByte_eq _ rfl]; simp [decodeScaling]
    | lzScalingAbsent x => cases hbits; rw [decode_lzScaling, decodeByte_eq _ rfl]; simp [decodeScaling]
    | _ => cases hi
  | lzOffset scaled =>
    have hbyte : bits.length = 8 := by
      cases i with
      | lzOffsetTradSmall h l => cases hbits; rfl
      | lzOffsetTradLarge n => cases hbits; rfl
      | lzOffsetScaled k l => cases hbits; rfl
      | lzOffsetEarlyStop k l => cases hbits; rfl
      | _ => cases hi
    exact (decodeByte_eq _ hbyte).trans (congrArg Except.ok (decodeOffset_encode hi hbits))
  | lzLength =>
    cases i with
    | lzLengthByte v =>
      cases hbits
      have hv : v ≠ 0xFF#8 := bne_iff_ne.1 hi
      rw [decode_lzLength, decodeByte_eq _ rfl]
      simp [decodeLength, hv]
    | lzLengthEscape => cases hbits; rw [decode_lzLength, decodeByte_eq _ rfl]; simp [decodeLength]
    | _ => cases hi

/-- Settles O7: each word is decoded bit by bit. -/
theorem wordsDecode : Obligations.WordsDecode := by
  refine ⟨?streamHeader, ?checksums, ?fill, ?lzna, ?quantum, ?long, ?short, ?gamma, ?scaled, ?ctrl⟩
  case streamHeader => rfl
  case checksums => rfl
  case fill => rfl
  case lzna => rfl
  case quantum => rfl
  case long => rfl
  case short => rfl
  case gamma => rfl
  case scaled => rfl
  case ctrl => rfl

end Sys2Proof
end

section
/-! What the engine's work inside a block can do, said once for each computation: it leaves the host's side, the registers, the
positions and the block as they are, stores nothing at or above DST_LEN, keeps the memories' canonical form and stays inside the
block; and it is not refused for an element that is not at its cursor. -/

namespace Sys2Proof.Machine

/-! ### The relation -/

/-- What every computation of the engine but START leaves: the host's side, the lengths, the snapshot, the destination bytes at
or above DST_LEN and the canonical form of the memories it writes. -/
structure Framed (s t : State) : Prop where
  src : t.src = s.src
  srcLen : t.regs.srcLen = s.regs.srcLen
  dstLen : t.regs.dstLen = s.regs.dstLen
  dst0 : t.dst0 = s.dst0
  host : t.host = s.host
  hostData : t.hostData = s.hostData
  direct : t.direct = s.direct
  dst : ∀ a, s.dstLen ≤ a → Memory.read t.dst a = Memory.read s.dst a
  dstWf : Memory.wf s.dst = true → Memory.wf t.dst = true
  symsWf : Memory.wf s.ct.syms = true → Memory.wf t.ct.syms = true

/-- `t` is reached from `s` by work inside a block. -/
structure Worked (s t : State) : Prop extends Framed s t where
  regs : t.regs = s.regs
  sp : t.sp = s.sp
  off : t.off = s.off
  phase : t.phase = s.phase
  bs : t.loc.bs = s.loc.bs
  localSource : s.loc.s ≤ t.loc.s
  ctl : s.ctl.inBlock → t.ctl.inBlock

theorem Framed.refl (s : State) : Framed s s :=
  ⟨rfl, rfl, rfl, rfl, rfl, rfl, rfl, fun _ _ => rfl, id, id⟩

theorem Worked.refl (s : State) : Worked s s :=
  ⟨.refl s, rfl, rfl, rfl, rfl, rfl, Nat.le_refl _, id⟩

theorem Framed.trans {s t u : State} (h : Framed s t) (k : Framed t u) : Framed s u where
  src := k.src.trans h.src
  srcLen := k.srcLen.trans h.srcLen
  dstLen := k.dstLen.trans h.dstLen
  dst0 := k.dst0.trans h.dst0
  host := k.host.trans h.host
  hostData := k.hostData.trans h.hostData
  direct := k.direct.trans h.direct
  dst a ha := (k.dst a (by simp only [State.dstLen, h.dstLen] at ha ⊢; exact ha)).trans (h.dst a ha)
  dstWf := k.dstWf ∘ h.dstWf
  symsWf := k.symsWf ∘ h.symsWf

theorem Worked.trans {s t u : State} (h : Worked s t) (k : Worked t u) : Worked s u where
  toFramed := h.toFramed.trans k.toFramed
  regs := k.regs.trans h.regs
  sp := k.sp.trans h.sp
  off := k.off.trans h.off
  phase := k.phase.trans h.phase
  bs := k.bs.trans h.bs
  localSource := Nat.le_trans h.localSource k.localSource
  ctl := k.ctl ∘ h.ctl

/-! ### The updates of the state -/

theorem Worked.setBh (s : State) (v : BlockHeader) : Worked s (s.setBh v) := { Worked.refl s with }
theorem Worked.setLt (s : State) (v : LzTable) : Worked s (s.setLt v) := { Worked.refl s with }
theorem Worked.setTmp (s : State) (v : Temps) : Worked s (s.setTmp v) := { Worked.refl s with }
theorem Worked.setRes (s : State) (ok : Bool) (v : Int) : Worked s (s.setRes ok v) := { Worked.refl s with }

theorem Worked.setCursor (s : State) (c : CSel) (v : Cursor) : Worked s (s.setCursor c v) := by
  cases c
  · exact { Worked.refl s with }
  · exact { Worked.refl s with }

theorem Worked.setCt (s : State) {v : CodeTable} (h : Memory.wf s.ct.syms = true → Memory.wf v.syms = true) :
    Worked s (s.setCt v) :=
  { Worked.refl s with symsWf := h }

theorem Worked.setCtl (s : State) {c : Ctl} (h : c.inBlock) : Worked s (s.setCtl c) :=
  { Worked.refl s with ctl := fun _ => h }

theorem Worked.setLoc (s : State) {l : Locals} (hbs : l.bs = s.loc.bs) (hs : s.loc.s ≤ l.s) : Worked s (s.setLoc l) :=
  { Worked.refl s with bs := hbs, localSource := hs }

/-- R62: bytes below DST_LEN are stored. -/
theorem Worked.setDst_writeList (s : State) {i : Nat} {bs : List Byte} (h : bs = [] ∨ i + bs.length ≤ s.dstLen) :
    Worked s (s.setDst (Memory.writeList s.dst i bs)) :=
  { Worked.refl s with
    dst := fun a ha => by
      show Memory.read (Memory.writeList s.dst i bs) a = _
      rw [Memory.read_writeList, if_neg]
      rcases h with rfl | h
      · simp
      · omega
    dstWf := Memory.wf_writeList i bs }

/-! ### Computations -/

/-- The reasons for which `step` may refuse: not that an element is not at its cursor, nor that it has no meaning. -/
def Refusal.Permitted (r : Refusal) : Prop :=
  r ≠ .notAtCursor ∧ ∀ m, r ≠ .notModelled m

/-- The computation works inside a block. -/
def Works {α : Type} (m : Eng α) : Prop :=
  ∀ s, match m s with
    | .ok _ t => Worked s t
    | .error (.raise _) t => Worked s t
    | .error (.refuse r) _ => r.Permitted
    | .error (.fault _) _ => True

/-- Every piece of the gamma path is inside a block. -/
theorem gammaCtl_inBlock (p : Config.GammaPiece) : (gammaCtl p).inBlock := by
  cases p <;> decide

namespace Works

variable {α β : Type}

theorem ok {m : Eng α} {s t : State} {x : α} (h : Works m) (hm : m s = .ok x t) : Worked s t := by
  simpa [hm] using h s

theorem raised {m : Eng α} {s t : State} {c : Cause} (h : Works m) (hm : m s = .error (.raise c) t) : Worked s t := by
  simpa [hm] using h s

theorem permitted {m : Eng α} {s t : State} {r : Refusal} (h : Works m) (hm : m s = .error (.refuse r) t) :
    r.Permitted := by
  have hs := h s
  rwa [hm] at hs

theorem pure (x : α) : Works (pure x : Eng α) := fun s => Worked.refl s

theorem bind {m : Eng α} {f : α → Eng β} (h : Works m) (k : ∀ x, Works (f x)) : Works (m >>= f) := by
  intro s
  rw [Eng.bind_run]
  cases hm : m s with
  | error e t =>
    have hs := h s
    rw [hm] at hs
    cases e <;> exact hs
  | ok x t =>
    have hst := h.ok hm
    simp only
    cases hf : f x t with
    | ok y u => exact hst.trans ((k x).ok hf)
    | error e u =>
      cases e with
      | raise c => exact hst.trans ((k x).raised hf)
      | refuse r => exact (k x).permitted hf
      | fault f => trivial

theorem raise (c : Cause) : Works (raise c : Eng α) := fun s => Worked.refl s
theorem stopFault (f : Fault) : Works (stopFault f : Eng α) := fun _ => trivial
theorem refuse {r : Refusal} (h : r.Permitted) : Works (refuse r : Eng α) := fun _ => h
theorem getState : Works getState := fun s => Worked.refl s
theorem update {f : State → State} (h : ∀ s, Worked s (f s)) : Works (update f) := h
theorem setResult (ok : Bool) (v : Int) : Works (setResult ok v) := fun s => Worked.setRes s ok v
theorem goto {c : Ctl} (h : c.inBlock) : Works (goto c) := fun s => Worked.setCtl s h

theorem updateLoc {f : Locals → Locals} (h : ∀ l, (f l).bs = l.bs ∧ l.s ≤ (f l).s) : Works (updateLoc f) :=
  fun s => Worked.setLoc s (h s.loc).1 (h s.loc).2

/-- An update of the locals that leaves the block and the local source offset. -/
theorem updateLoc_else {f : Locals → Locals} (hbs : ∀ l, (f l).bs = l.bs) (hs : ∀ l, (f l).s = l.s) :
    Works (Machine.updateLoc f) :=
  updateLoc fun l => ⟨hbs l, Nat.le_of_eq (hs l).symm⟩

theorem require (p : Bool) (c : Cause) : Works (require p c) := by
  intro s
  cases p <;> exact Worked.refl s

theorem ite {p : Prop} [Decidable p] {m n : Eng α} (h : Works m) (k : Works n) : Works (if p then m else n) := by
  split
  · exact h
  · exact k

theorem srcBytes (i n : Nat) : Works (srcBytes i n) := by
  intro s
  unfold Machine.srcBytes
  split <;> rename_i hm <;> split at hm <;> cases hm <;> first | exact Worked.refl s | trivial

theorem dstRead (i : Nat) : Works (dstRead i) := by
  intro s
  by_cases h : i < s.dstLen
  · rw [dstRead_ok h]
    exact Worked.refl s
  · rw [dstRead_fault h]
    trivial

theorem dstWrite (i : Nat) (bs : List Byte) : Works (dstWrite i bs) := by
  intro s
  by_cases h : bs = [] ∨ i + bs.length ≤ s.dstLen
  · rw [dstWrite_ok h]
    exact Worked.setDst_writeList s h
  · rw [dstWrite_fault h]
    trivial

theorem copySrc (o i n : Nat) : Works (copySrc o i n) :=
  (srcBytes i n).bind fun bs => dstWrite o bs

theorem onCursor (c : CSel) (f : Source → Cursor → Except (Cause × Cursor) (α × Cursor)) : Works (onCursor c f) := by
  intro s
  cases h : f s.source (s.cursor c) with
  | ok r => obtain ⟨x, v⟩ := r; rw [onCursor_ok h]; exact Worked.setCursor s c v
  | error r => obtain ⟨e, v⟩ := r; rw [onCursor_raise h]; exact Worked.setCursor s c v

theorem refillCursor (c : CSel) (dir : Dir) : Works (refillCursor c dir) := onCursor c _
theorem readBitsOf (c : CSel) (n : Nat) : Works (readBitsOf c n) := onCursor c _

theorem initCursor (c : CSel) (dir : Dir) (lo hi : Nat) : Works (initCursor c dir lo hi) := by
  cases dir
  · exact update fun s => Worked.setCursor s c _
  · exact update fun s => Worked.setCursor s c _

/-! ### Chunks (spec file 44_bytestream.md) -/

theorem startChunk (p e cap : Nat) (dest : ChunkDest) : Works (startChunk p e cap dest) :=
  bind (updateLoc_else (fun _ => rfl) (fun _ => rfl)) fun _ => goto (by decide)

theorem deliver (out : List Byte) (n : Nat) : Works (deliver out n) := by
  refine bind getState fun s => ?_
  cases hdest : s.loc.dest <;> simp only [hdest]
  case entropy =>
    exact bind (require _ _) fun _ => bind (dstWrite _ _) fun _ =>
      bind (updateLoc_else (fun _ => rfl) (fun _ => rfl)) fun _ => goto (by decide)
  case lit =>
    exact bind (update fun s => Worked.setLt s _) fun _ =>
      bind (updateLoc_else (fun _ => rfl) (fun _ => rfl)) fun _ => startChunk _ _ _ _
  case cmd =>
    exact bind (update fun s => Worked.setLt s _) fun _ =>
      bind (updateLoc_else (fun _ => rfl) (fun _ => rfl)) fun _ => bind (require _ _) fun _ =>
        bind (update fun s => Worked.setLt s _) fun _ => goto (by decide)
  case offs =>
    exact bind (update fun s => Worked.setLt s _) fun _ =>
      bind (updateLoc_else (fun _ => rfl) (fun _ => rfl)) fun _ => ite (startChunk _ _ _ _) (startChunk _ _ _ _)
  case extra =>
    exact bind (update fun s => Worked.setLt s _) fun _ =>
      bind (updateLoc_else (fun _ => rfl) (fun _ => rfl)) fun _ => bind (require _ _) fun _ => startChunk _ _ _ _
  case lens =>
    exact bind (update fun s => Worked.setLt s _) fun _ =>
      bind (updateLoc_else (fun _ => rfl) (fun _ => rfl)) fun _ => goto (by decide)

theorem copyChunk (hdr size : Nat) : Works (copyChunk hdr size) :=
  bind getState fun _ => bind (require _ _) fun _ => bind (require _ _) fun _ => bind (srcBytes _ _) fun _ => deliver _ _

theorem checkPayload (hdr srcSize dstSize : Nat) : Works (checkPayload hdr srcSize dstSize) :=
  bind getState fun _ => bind (require _ _) fun _ => require _ _

theorem unsupportedChunk (hdr srcSize dstSize : Nat) : Works (unsupportedChunk hdr srcSize dstSize) :=
  bind (checkPayload _ _ _) fun _ => raise _

theorem huffChunk (type hdr srcSize dstSize : Nat) : Works (huffChunk type hdr srcSize dstSize) :=
  bind (checkPayload _ _ _) fun _ => bind getState fun _ => bind (initCursor _ _ _ _) fun _ =>
    bind (update fun s => Worked.setCt s fun _ => rfl) fun _ =>
      bind (updateLoc_else (fun _ => rfl) (fun _ => rfl)) fun _ => goto (by decide)

theorem longSizes (srcSize dstSize : Nat) : Works (longSizes srcSize dstSize) := require _ _

/-! ### Code lengths (spec file 43_entropy.md) -/

theorem insertSymbol (sym : Byte) (len : Nat) : Works (insertSymbol sym len) :=
  bind getState fun _ => ite (update fun s => Worked.setCt s (Memory.wf_write _ _)) (stopFault _)

theorem selectorBits :
    Works (do
      let _ ← Machine.onCursor .a fun src c => c.readBitNorefill src
      let _ ← Machine.onCursor .a fun src c => c.readBitNorefill src) :=
  bind (onCursor _ _) fun _ => bind (onCursor _ _) fun _ => pure _

theorem insertAll (xs : List (Byte × Nat)) : Works (insertAll xs) := by
  induction xs with
  | nil => exact pure _
  | cons x xs ih => exact ite (bind (insertSymbol _ _) fun _ => ih) (refuse (by simp [Refusal.Permitted]))

theorem skipBits (n : Nat) : Works (skipBits n) := by
  induction n with
  | zero => exact pure _
  | succ n ih => exact bind (onCursor _ _) fun _ => ih

theorem golombRice (reader : Option (Config.GolombRiceArgs → Config.GolombRiceAnswer)) : Works (golombRice reader) := by
  cases reader with
  | none => exact raise _
  | some f =>
    refine bind getState fun s => bind (readBitsOf _ _) fun _ => bind (update fun s => Worked.setTmp s _) fun _ =>
      bind (readBitsOf _ _) fun _ => bind (insertAll _) fun _ => bind (skipBits _) fun _ => ?_
    split
    · exact raise _
    · exact raise _
    · exact ite (refuse (by simp [Refusal.Permitted])) (bind (updateLoc_else (fun _ => rfl) (fun _ => rfl)) fun _ => goto (by decide))

theorem sparseLoop (w n : Nat) : Works (sparseLoop w n) := by
  induction n with
  | zero => exact pure _
  | succ n ih =>
    exact bind (refillCursor _ _) fun _ => bind (readBitsOf _ _) fun _ => bind (onCursor _ _) fun _ =>
      bind (require _ _) fun _ => bind (insertSymbol _ _) fun _ => ih

theorem sparsePath : Works sparsePath := by
  refine bind (readBitsOf _ _) fun _ => bind (require _ _) fun _ => ite ?_ ?_
  · exact bind (readBitsOf _ _) fun _ => bind (update fun s => Worked.setCt s (Memory.wf_write _ _)) fun _ =>
      bind (updateLoc_else (fun _ => rfl) (fun _ => rfl)) fun _ => goto (by decide)
  · exact bind (readBitsOf _ _) fun _ => bind (require _ _) fun _ => bind (sparseLoop _ _) fun _ =>
      bind (updateLoc_else (fun _ => rfl) (fun _ => rfl)) fun _ => goto (by decide)

theorem gammaStart : Works gammaStart :=
  bind (readBitsOf _ _) fun _ => bind (update fun s => Worked.setTmp s _) fun _ => bind (onCursor _ _) fun _ =>
    goto (gammaCtl_inBlock _)

theorem gammaGuard : Works gammaGuard := bind getState fun _ => require _ _

theorem zeroRun : Works zeroRun :=
  bind gammaGuard fun _ => bind (onCursor _ _) fun _ => bind (update fun s => Worked.setTmp s _) fun _ =>
    bind getState fun _ => goto (gammaCtl_inBlock _)

theorem runCount : Works runCount :=
  bind (refillCursor _ _) fun _ => bind gammaGuard fun _ => bind (onCursor _ _) fun _ => bind getState fun _ =>
    bind (require _ _) fun _ => bind (refillCursor _ _) fun _ => bind (update fun s => Worked.setTmp s _) fun _ =>
      bind (updateLoc_else (fun _ => rfl) (fun _ => rfl)) fun _ => goto (gammaCtl_inBlock _)

theorem residual : Works residual :=
  bind getState fun _ => bind (require _ _) fun _ => bind (readBitsOf _ _) fun _ => bind (require _ _) fun _ =>
    bind (update fun s => Worked.setTmp s _) fun _ => bind (refillCursor _ _) fun _ => bind (insertSymbol _ _) fun _ =>
      bind (update fun s => Worked.setTmp s _) fun _ => bind (updateLoc_else (fun _ => rfl) (fun _ => rfl)) fun _ =>
        bind getState fun _ => goto (gammaCtl_inBlock _)

theorem gammaFinish : Works gammaFinish :=
  bind getState fun _ => bind (require _ _) fun _ =>
    bind (updateLoc_else (fun _ => rfl) (fun _ => rfl)) fun _ => goto (by decide)

theorem oneSymbol : Works oneSymbol := by
  refine bind getState fun s => ?_
  split
  · exact refuse (by simp [Refusal.Permitted])
  · exact deliver _ _

theorem huffSymbols (decoder : Option (Config.HuffArgs → Config.HuffAnswer)) : Works (huffSymbols decoder) := by
  refine bind getState fun s => ?_
  cases decoder with
  | none => exact raise _
  | some f =>
    simp only []
    split
    · exact raise _
    · exact raise _
    · split
      · exact bind (require _ _) fun _ => deliver _ _
      · exact refuse (by simp [Refusal.Permitted])

theorem codesDone (decoder : Option (Config.HuffArgs → Config.HuffAnswer)) : Works (codesDone decoder) :=
  bind getState fun _ => ite oneSymbol (huffSymbols _)

/-! ### Block headers (spec file 42_headers.md) -/

theorem acceptBlockHeader (bh : BlockHeader) (n : Nat) : Works (acceptBlockHeader bh n) :=
  bind (update fun s => Worked.setBh s _) fun _ =>
    bind (updateLoc fun l => ⟨rfl, Nat.le_add_right l.s n⟩) fun _ => goto (by decide)

theorem beginKraken : Works beginKraken := by
  refine bind getState fun s => ?_
  simp only []
  split
  · exact update fun s => Worked.setBh s _
  · exact pure _

theorem beginLzna : Works beginLzna := by
  refine bind getState fun s => ?_
  simp only []
  split
  · exact update fun s => Worked.setBh s _
  · exact pure _

theorem wholeMatchHeader (codec : Option (List Byte → Config.WholeMatchAnswer)) : Works (wholeMatchHeader codec) := by
  refine bind getState fun s => ?_
  cases codec with
  | none => exact raise _
  | some f =>
    simp only []
    split
    · exact raise _
    · exact bind (require _ _) fun _ => acceptBlockHeader _ _

/-! ### The LZ table (spec file 45_lztable.md) -/

theorem pushOffset (v : Word) : Works (pushOffset v) :=
  bind (update fun s => Worked.setLt s _) fun _ => updateLoc_else (fun _ => rfl) (fun _ => rfl)

theorem tradOffset (cb : Byte) : Works (tradOffset cb) :=
  bind getState fun _ => bind (onCursor _ _) fun _ => pushOffset _

theorem scaledOffsetOp (k : Nat) (l : BitVec 3) : Works (scaledOffsetOp k l) :=
  bind (require _ _) fun _ => bind getState fun _ => bind (onCursor _ _) fun _ => pushOffset _

theorem pushLength (v : Nat) : Works (pushLength v) :=
  bind (update fun s => Worked.setLt s _) fun _ => updateLoc_else (fun _ => rfl) (fun _ => rfl)

theorem lengthEscape : Works lengthEscape := by
  refine bind getState fun s => bind (require _ _) fun _ => ?_
  split
  · exact raise _
  · exact bind (updateLoc_else (fun _ => rfl) (fun _ => rfl)) fun _ => pushLength _

theorem sideBound : Works sideBound :=
  bind getState fun _ => bind (require _ _) fun _ => bind (updateLoc_else (fun _ => rfl) (fun _ => rfl)) fun _ =>
    goto (by decide)

theorem sideCount : Works sideCount :=
  bind getState fun _ => bind (require _ _) fun _ => bind (onCursor _ _) fun _ =>
    bind (updateLoc_else (fun _ => rfl) (fun _ => rfl)) fun _ => goto (by decide)

theorem tableStart : Works tableStart := by
  refine bind getState fun s => bind (require _ _) fun _ => bind (require _ _) fun _ => ite ?_ (goto (by decide))
  exact bind (copySrc _ _ _) fun _ => bind (updateLoc_else (fun _ => rfl) (fun _ => rfl)) fun _ => goto (by decide)

theorem unpackStart (ok : Option (Nat → Nat → Nat → Nat → Nat → Bool)) : Works (unpackStart ok) :=
  bind getState fun _ => bind (require _ _) fun _ => bind (update fun s => Worked.setLt s _) fun _ =>
    bind (initCursor _ _ _ _) fun _ => bind (initCursor _ _ _ _) fun _ => goto (by decide)

theorem offsetsDone : Works offsetsDone := by
  refine bind getState fun s => ite (bind (update fun s => Worked.setLt s _) fun _ => ?_) sideBound
  split
  · exact sideBound
  · exact bind (raise _) fun _ => sideBound

theorem sideStore : Works sideStore :=
  bind getState fun _ => bind (require _ _) fun _ => bind (update fun s => Worked.setLt s _) fun _ =>
    bind (updateLoc_else (fun _ => rfl) (fun _ => rfl)) fun _ => goto (by decide)

theorem sideDone : Works sideDone :=
  bind getState fun _ => bind (require _ _) fun _ => bind (updateLoc_else (fun _ => rfl) (fun _ => rfl)) fun _ =>
    goto (by decide)

theorem lengthsDone : Works lengthsDone :=
  bind getState fun _ => bind (require _ _) fun _ => goto (by decide)

theorem lzWrites (o : Nat) (lits : List Byte) (ws : List Config.LzByte) : Works (lzWrites o lits ws) := by
  induction ws generalizing o lits with
  | nil => exact pure _
  | cons w ws ih =>
    cases w with
    | literal =>
      cases lits with
      | nil => exact refuse (by simp [Refusal.Permitted])
      | cons b lits => exact bind (dstWrite _ _) fun _ => ih _ _
    | copy j =>
      exact ite (bind (dstRead _) fun _ => bind (dstWrite _ _) fun _ => ih _ _) (refuse (by simp [Refusal.Permitted]))

theorem lzRuns (proc : Option (Nat → LzTable → Nat → Nat → Config.LzAnswer)) : Works (lzRuns proc) := by
  refine bind getState fun s => ?_
  cases proc with
  | none => exact raise _
  | some f =>
    refine ite (refuse (by simp [Refusal.Permitted])) (bind (lzWrites _ _ _) fun _ => ?_)
    split
    · exact raise _
    · exact raise _
    · exact ite (bind (updateLoc_else (fun _ => rfl) (fun _ => rfl)) fun _ => goto (by decide))
        (refuse (by simp [Refusal.Permitted]))

/-! ### Blocks and quanta (spec file 46_orchestrator.md) -/

theorem lzSubchunk (mode used : Nat) : Works (lzSubchunk mode used) := by
  refine bind (updateLoc_else (fun _ => rfl) (fun _ => rfl)) fun _ => bind getState fun s => bind (require _ _) fun _ =>
    ite (bind (updateLoc_else (fun _ => rfl) (fun _ => rfl)) fun _ => goto (by decide)) (ite ?_ (raise _))
  exact bind (copySrc _ _ _) fun _ => bind (updateLoc_else (fun _ => rfl) (fun _ => rfl)) fun _ => goto (by decide)

theorem matchCopy (dist o n : Nat) : Works (matchCopy dist o n) := by
  induction n generalizing o with
  | zero => exact pure _
  | succ n ih => exact bind (dstRead _) fun _ => bind (dstWrite _ _) fun _ => ih _

theorem fillBlock (bs : Nat) : Works (fillBlock bs) :=
  bind getState fun _ => ite (dstWrite _ _) (bind (require _ _) fun _ => matchCopy _ _ _)

theorem blockBody : Works blockBody := by
  refine bind getState fun s => ite (bind (fillBlock _) fun _ => goto (by decide)) ?_
  refine bind (require _ _) fun _ => bind (require _ _) fun _ => ite ?_ ?_
  · exact bind (copySrc _ _ _) fun _ => bind (updateLoc fun l => ⟨rfl, Nat.le_add_right l.s _⟩) fun _ => goto (by decide)
  · exact bind (require _ _) fun _ => bind (updateLoc_else (fun _ => rfl) (fun _ => rfl)) fun _ => goto (by decide)

theorem quantumLoop : Works quantumLoop := by
  refine bind getState fun s => ite ?_ ?_
  · exact bind (updateLoc_else (fun _ => rfl) (fun _ => rfl)) fun _ => bind (require _ _) fun _ => goto (by decide)
  · exact bind (require _ _) fun _ => bind (updateLoc fun l => ⟨rfl, Nat.le_add_right l.s _⟩) fun _ => goto (by decide)

/-- R173, R231, R310, R234: the fault of an element that cannot be read. -/
theorem unreadable (e : DecodeError) : Works (unreadable e) := by
  cases e with
  | noCommand => exact pure _
  | truncatedBlockHeader => exact bind beginLzna fun _ => raise _
  | truncatedSubchunk => exact raise _
  | truncatedChunk => exact raise _
  | truncatedChunkHeader => exact raise _
  | noByte => exact stopFault _

end Works

end Sys2Proof.Machine
end

section
/-! What the engine does with an element (R2, R80): every row but the commands and the legal stream headers works inside a block,
and one that is read from a cursor is refused only where it does not stand there (log entry 13). -/

namespace Sys2Proof

/-- The cursor a bit-level element is read from (R80). -/
def Instr.readAt : Instr → Option CSel
  | .entropySelGamma | .entropySelSparse | .entropySelGolombRice | .entropySelBad => some .a
  | .sparseZero | .sparseOne _ | .sparseMany _ _ _ => some .a
  | .gammaHeader _ _ | .gammaZeroRun _ _ | .gammaRunCount _ _ | .gammaResidual _ _ _ => some .a
  | .gammaCode c _ _ | .distanceSmall c _ _ | .distanceLarge c _ _ _ | .lengthCode c _ _ | .moreThan24 c _ _ => some c
  | .sideCountCode _ _ => some .b
  | _ => none

/-- The rows that do more than work inside a block: the host commands (R32) and the legal stream headers (R161). -/
def Instr.isCommand : Instr → Bool
  | .ctrlStart _ _ | .ctrlSoftReset _ _ | .ctrlForgetStream _ => true
  | .streamHeaderLzna _ _ _ | .streamHeaderKraken _ _ _ | .streamHeaderMermaid _ _ _ | .streamHeaderBitknit _ _ _
  | .streamHeaderLeviathan _ _ _ => true
  | _ => false

namespace Machine

/-- The element's bits are the next ones at its cursor, and a residual's field has the bits in force (R197). -/
def State.holds (s : State) (i : Instr) : Prop :=
  (∀ c bits, i.readAt = some c → encode i = some bits → (s.cursor c).reads s.source bits) ∧
  ∀ f q b, i = .gammaResidual f q b → f = s.tmp.forcedBits

/-- The meaning of the row in the state is work inside a block, or the row is not there. -/
def Executes (i : Instr) (s : State) : Prop :=
  ∃ m : Eng Unit, Works m ∧ (exec i s = settle m s ∨ ¬ s.holds i ∧ exec i s = .refused .notAtCursor)

section Executes

variable {i : Instr} {s : State} {m : Eng Unit}

theorem Executes.of_works (hexec : exec i s = settle m s) (h : Works m) : Executes i s :=
  ⟨m, h, .inl hexec⟩

theorem Executes.of_atCursor {c : CSel} {bits : Bits} (hc : i.readAt = some c) (hi : encode i = some bits)
    (hexec : exec i s = settle (do atCursor c i params; m) s) (h : Works m) : Executes i s := by
  refine ⟨m, h, ?_⟩
  by_cases hr : (s.cursor c).reads s.source bits
  · left
    rw [hexec, settle, Eng.bind_ok (atCursor_ok hi hr), settle]
  · right
    exact ⟨fun hs => hr (hs.1 c bits hc hi), hexec.trans (settle_refuse (Eng.bind_error (atCursor_refuse hi hr)))⟩

end Executes

/-- The result of an operation on a cursor is kept. -/
theorem Works.cursorResult {α : Type} (c : CSel) (f : Source → Cursor → Except (Cause × Cursor) (α × Cursor))
    (ok : α → Bool) (value : α → Int) :
    Works (do
      let v ← Machine.onCursor c f
      Machine.setResult (ok v) (value v)) :=
  bind (onCursor _ _) fun _ => setResult _ _

/-- The selector's bits are passed before its path begins (R191). -/
theorem Executes.of_selector {i : Instr} {s : State} {k : Eng Unit} {bits : Bits} (hc : i.readAt = some .a)
    (hi : encode i = some bits) (hexec : exec i s = settle (do readSelector i params; k) s) (hk : Works k) :
    Executes i s := by
  refine .of_atCursor hc hi (hexec.trans ?_) (Works.bind Works.selectorBits fun _ => hk)
  rw [readSelector, bind_assoc]

/-- Every row but the commands and the legal stream headers works inside a block. -/
theorem exec_executes {i : Instr} (hrow : i.isCommand = false) (s : State) : Executes i s := by
  cases i with
  | ctrlStart => cases hrow
  | ctrlSoftReset => cases hrow
  | ctrlForgetStream => cases hrow
  | streamHeaderLzna => cases hrow
  | streamHeaderKraken => cases hrow
  | streamHeaderMermaid => cases hrow
  | streamHeaderBitknit => cases hrow
  | streamHeaderLeviathan => cases hrow
  | streamHeaderBadMagic => exact .of_works rfl (Works.raise _)
  | streamHeaderBadReserved => exact .of_works rfl (Works.raise _)
  | streamHeaderBadFamily => exact .of_works rfl (Works.raise _)
  | streamHeaderTruncated => exact .of_works rfl (Works.raise _)
  | krakenBhBadSentinel => exact .of_works rfl (Works.raise _)
  | lznaBhBad => exact .of_works rfl (Works.raise _)
  | chunkCopyLongBad => exact .of_works rfl (Works.raise _)
  | chunkType6 => exact .of_works rfl (Works.raise _)
  | chunkType7 => exact .of_works rfl (Works.raise _)
  | lzFlagBad => exact .of_works rfl (Works.raise _)
  | krakenBhNormal => exact .of_works rfl (Works.acceptBlockHeader _ _)
  | krakenBhNormalCk => exact .of_works rfl (Works.acceptBlockHeader _ _)
  | krakenBhFill => exact .of_works rfl (Works.acceptBlockHeader _ _)
  | lznaBhNormal => exact .of_works rfl (Works.acceptBlockHeader _ _)
  | lznaBhNormalCk => exact .of_works rfl (Works.acceptBlockHeader _ _)
  | lznaBhMemset => exact .of_works rfl (Works.acceptBlockHeader _ _)
  | lznaBhRaw => exact .of_works rfl (Works.acceptBlockHeader _ _)
  | krakenBhTruncated => exact .of_works rfl (Works.bind Works.beginKraken fun _ => Works.raise _)
  | lznaBhWholeMatch => exact .of_works rfl (Works.wholeMatchHeader _)
  | quantumLz => exact .of_works rfl (Works.lzSubchunk _ _)
  | quantumStored => exact .of_works rfl (Works.lzSubchunk _ _)
  | quantumEntropy => exact .of_works rfl (Works.startChunk _ _ _ _)
  | chunkCopyShort => exact .of_works rfl (Works.copyChunk _ _)
  | chunkCopyLong => exact .of_works rfl (Works.copyChunk _ _)
  | chunkTansShort => exact .of_works rfl (Works.unsupportedChunk _ _ _)
  | chunkTansLong => exact .of_works rfl (Works.bind (Works.longSizes _ _) fun _ => Works.unsupportedChunk _ _ _)
  | chunkRleShort => exact .of_works rfl (Works.unsupportedChunk _ _ _)
  | chunkRleLong => exact .of_works rfl (Works.bind (Works.longSizes _ _) fun _ => Works.unsupportedChunk _ _ _)
  | chunkRecursiveShort => exact .of_works rfl (Works.unsupportedChunk _ _ _)
  | chunkRecursiveLong => exact .of_works rfl (Works.bind (Works.longSizes _ _) fun _ => Works.unsupportedChunk _ _ _)
  | chunkHuff2Short => exact .of_works rfl (Works.huffChunk _ _ _ _)
  | chunkHuff2Long => exact .of_works rfl (Works.bind (Works.longSizes _ _) fun _ => Works.huffChunk _ _ _ _)
  | chunkHuff4Short => exact .of_works rfl (Works.huffChunk _ _ _ _)
  | chunkHuff4Long => exact .of_works rfl (Works.bind (Works.longSizes _ _) fun _ => Works.huffChunk _ _ _ _)
  | entropySelGamma => exact .of_selector rfl rfl rfl (Works.goto (by decide))
  | entropySelSparse => exact .of_selector rfl rfl rfl (Works.goto (by decide))
  | entropySelGolombRice => exact .of_selector rfl rfl rfl (Works.golombRice _)
  | entropySelBad => exact .of_selector rfl rfl rfl (Works.raise _)
  | sparseZero => exact .of_atCursor rfl rfl rfl Works.sparsePath
  | sparseOne => exact .of_atCursor rfl rfl rfl Works.sparsePath
  | sparseMany => exact .of_atCursor rfl rfl rfl Works.sparsePath
  | gammaHeader => exact .of_atCursor rfl rfl rfl Works.gammaStart
  | gammaZeroRun => exact .of_atCursor rfl rfl rfl Works.zeroRun
  | gammaRunCount => exact .of_atCursor rfl rfl rfl Works.runCount
  | gammaResidual f q b =>
    by_cases hf : f = s.tmp.forcedBits
    · exact .of_atCursor rfl rfl (if_pos hf) Works.residual
    · exact ⟨pure (), Works.pure (), .inr ⟨fun hs => hf (hs.2 f q b rfl), if_neg hf⟩⟩
  | gammaCode => exact .of_atCursor rfl rfl rfl (Works.cursorResult _ _ _ _)
  | distanceSmall => exact .of_atCursor rfl rfl rfl (Works.cursorResult _ _ _ _)
  | distanceLarge => exact .of_atCursor rfl rfl rfl (Works.cursorResult _ _ _ _)
  | lengthCode => exact .of_atCursor rfl rfl rfl (Works.cursorResult _ _ _ _)
  | moreThan24 => exact .of_atCursor rfl rfl rfl (Works.cursorResult _ _ _ _)
  | sideCountCode => exact .of_atCursor rfl rfl rfl Works.sideCount
  | lzFlagOk => exact .of_works rfl (Works.bind (Works.updateLoc_else (fun _ => rfl) (fun _ => rfl)) fun _ => Works.startChunk _ _ _ _)
  | lzScalingPresent sel =>
    refine .of_works (show execLzScalingPresent sel s = _ from rfl) ?_
    exact Works.bind (Works.update fun s => Worked.setLt s _) fun _ =>
      Works.bind (Works.updateLoc_else (fun _ => rfl) (fun _ => rfl)) fun _ => Works.startChunk _ _ _ _
  | lzScalingAbsent => exact .of_works rfl (Works.bind (Works.update fun s => Worked.setLt s _) fun _ => Works.startChunk _ _ _ _)
  | lzOffsetTradSmall => exact .of_works rfl (Works.tradOffset _)
  | lzOffsetTradLarge => exact .of_works rfl (Works.tradOffset _)
  | lzOffsetScaled => exact .of_works rfl (Works.scaledOffsetOp _ _)
  | lzOffsetEarlyStop => exact .of_works rfl (Works.scaledOffsetOp _ _)
  | lzLengthByte => exact .of_works rfl (Works.pushLength _)
  | lzLengthEscape => exact .of_works rfl Works.lengthEscape
  | cursorInitFwd c lo hi => exact .of_works (m := initCursor c .fwd lo hi) rfl (Works.initCursor _ _ _ _)
  | cursorInitBwd c lo hi => exact .of_works (m := initCursor c .bwd lo hi) rfl (Works.initCursor _ _ _ _)
  | refill => exact .of_works rfl (Works.refillCursor _ _)
  | refillBackwards => exact .of_works rfl (Works.refillCursor _ _)
  | readBits => exact .of_works rfl (Works.cursorResult _ _ _ _)
  | readBitsZero => exact .of_works rfl (Works.cursorResult _ _ _ _)
  | readBit => exact .of_works rfl (Works.cursorResult _ _ _ _)
  | readBitNorefill => exact .of_works rfl (Works.cursorResult _ _ _ _)
  | readGamma => exact .of_works rfl (Works.cursorResult _ _ _ _)
  | readDistance => exact .of_works rfl (Works.cursorResult _ _ _ _)
  | readDistanceB => exact .of_works rfl (Works.cursorResult _ _ _ _)
  | readLength => exact .of_works rfl (Works.cursorResult _ _ _ _)
  | readLengthB => exact .of_works rfl (Works.cursorResult _ _ _ _)
  | readMoreThan24Bits => exact .of_works rfl (Works.cursorResult _ _ _ _)
  | readMoreThan24BitsB => exact .of_works rfl (Works.cursorResult _ _ _ _)
  | consumedPos => exact .of_works rfl (Works.setResult _ _)

end Machine
end Sys2Proof
end

section
/-! What the decoder reads from a cursor stands there (log entry 13): the bits decoded are those the cursor reads next, and an
element read from a cursor is shorter than what was looked at. -/

namespace Sys2Proof

/-- The cursor a context is read from (R80). -/
def Ctx.readAt : Ctx → Option CSel
  | .selector | .sparse | .gammaHeader | .gammaZero | .gammaRun | .residual _ => some .a
  | .gammaCode c | .distance c _ | .lengthCode c | .moreThan24 c _ => some c
  | .sideCount => some .b
  | _ => none

theorem Ctx.readAt_of_reads {ctx : Ctx} {i : Instr} (h : ctx.reads i = true) : i.readAt = ctx.readAt := by
  cases ctx with
  | ctrl => cases i with
    | ctrlStart | ctrlSoftReset | ctrlForgetStream => rfl
    | _ => cases h
  | streamHeader => cases i with
    | streamHeaderLzna | streamHeaderKraken | streamHeaderMermaid | streamHeaderBitknit | streamHeaderLeviathan
    | streamHeaderBadMagic | streamHeaderBadReserved | streamHeaderBadFamily | streamHeaderTruncated => rfl
    | _ => cases h
  | krakenBh => cases i with
    | krakenBhNormal | krakenBhNormalCk | krakenBhFill | krakenBhBadSentinel | krakenBhTruncated => rfl
    | _ => cases h
  | lznaBh => cases i with
    | lznaBhNormal | lznaBhNormalCk | lznaBhWholeMatch | lznaBhMemset | lznaBhRaw | lznaBhBad => rfl
    | _ => cases h
  | quantum => cases i with
    | quantumLz | quantumStored | quantumEntropy => rfl
    | _ => cases h
  | chunk => cases i with
    | chunkCopyShort | chunkCopyLong | chunkCopyLongBad | chunkTansShort | chunkTansLong | chunkHuff2Short
    | chunkHuff2Long | chunkRleShort | chunkRleLong | chunkHuff4Short | chunkHuff4Long | chunkRecursiveShort
    | chunkRecursiveLong | chunkType6 | chunkType7 => rfl
    | _ => cases h
  | selector => cases i with
    | entropySelGamma | entropySelSparse | entropySelGolombRice | entropySelBad => rfl
    | _ => cases h
  | sparse => cases i with
    | sparseZero | sparseOne | sparseMany => rfl
    | _ => cases h
  | gammaHeader => cases i with
    | gammaHeader => rfl
    | _ => cases h
  | gammaZero => cases i with
    | gammaZeroRun => rfl
    | _ => cases h
  | gammaRun => cases i with
    | gammaRunCount => rfl
    | _ => cases h
  | residual => cases i with
    | gammaResidual => rfl
    | _ => cases h
  | gammaCode => cases i with
    | gammaCode => exact congrArg some (eq_of_beq h).symm
    | _ => cases h
  | distance => cases i with
    | distanceSmall => exact congrArg some (eq_of_beq (Bool.and_eq_true_iff.1 h).1).symm
    | distanceLarge => exact congrArg some (eq_of_beq (Bool.and_eq_true_iff.1 h).1).symm
    | _ => cases h
  | lengthCode => cases i with
    | lengthCode => exact congrArg some (eq_of_beq h).symm
    | _ => cases h
  | sideCount => cases i with
    | sideCountCode => rfl
    | _ => cases h
  | moreThan24 => cases i with
    | moreThan24 => exact congrArg some (eq_of_beq (Bool.and_eq_true_iff.1 h).1).symm
    | _ => cases h
  | lzFlag => cases i with
    | lzFlagOk | lzFlagBad => rfl
    | _ => cases h
  | lzScaling => cases i with
    | lzScalingPresent | lzScalingAbsent => rfl
    | _ => cases h
  | lzOffset => cases i with
    | lzOffsetTradSmall | lzOffsetTradLarge | lzOffsetScaled | lzOffsetEarlyStop => rfl
    | _ => cases h
  | lzLength => cases i with
    | lzLengthByte | lzLengthEscape => rfl
    | _ => cases h

theorem distanceBits_le (cb : Byte) : distanceBits cb ≤ 19 := by
  have := cb.isLt
  unfold distanceBits
  split <;> omega

theorem zerosOneBits_length_le {n w : Nat} (h : n < 32 → w ≤ 64) (b : Nat) : (zerosOneBits n w b).length ≤ 96 := by
  rw [Laws.zerosOneBits_length, Laws.codeLength]
  split
  · have := h ‹_›
    omega
  · omega

/-- A sparse stream has at most 255 pairs of 12 bits. -/
theorem sparseMany_length_le {c : Byte} {w : BitVec 3} {pairs : List (Byte × BitVec 4)}
    (h : (Instr.sparseMany c w pairs).wf = true) :
    (bitsOf c ++ bitsOf w ++ encodePairs w.toNat pairs).length ≤ 3071 := by
  have hpairs : pairs.length * (8 + w.toNat) ≤ 3060 := by
    obtain ⟨-, ⟨hw, hlen, -⟩ | ⟨-, rfl⟩⟩ := (sparseMany_wf_iff c w pairs).1 h
    · have hc := c.isLt
      calc pairs.length * (8 + w.toNat) ≤ 255 * 12 := Nat.mul_le_mul (by omega) (by omega)
        _ = 3060 := rfl
    · simp
  simp only [List.length_append, bitsOf_length, Laws.encodePairs_length]
  omega

namespace Machine

theorem lookahead_ge (ctx : Ctx) : 16 ≤ lookahead ctx := by
  unfold lookahead
  split <;> decide

/-- An element read from a cursor is no longer than what the engine looks at. -/
theorem length_le_lookahead {ctx : Ctx} {i : Instr} {c : CSel} {bits : Bits} (hadmits : ctx.admits i = true)
    (hat : i.readAt = some c) (hwide : ∀ c n, ctx = .moreThan24 c n → n ≤ 26) (hbits : encode i = some bits) :
    bits.length ≤ 8 * lookahead ctx := by
  have h16 := lookahead_ge ctx
  suffices bits.length ≤ 128 ∨ ctx = .sparse ∧ bits.length ≤ 3071 by
    obtain h | ⟨rfl, h⟩ := this
    · omega
    · exact Nat.le_trans h (by decide)
  obtain ⟨hreads, hwf⟩ := Bool.and_eq_true_iff.1 hadmits
  have small {l : Bits} (hl : some l = some bits) (h : l.length ≤ 128) :
      bits.length ≤ 128 ∨ ctx = .sparse ∧ bits.length ≤ 3071 := by
    cases hl
    exact .inl h
  have code {n w b : Nat} (hl : some (zerosOneBits n w b) = some bits) (h : n < 32 → w ≤ 64) :=
    small hl (Nat.le_trans (zerosOneBits_length_le h b) (by decide))
  cases i with
  | entropySelGamma => exact small hbits (by decide)
  | entropySelSparse => exact small hbits (by decide)
  | entropySelGolombRice => exact small hbits (by decide)
  | entropySelBad => exact small hbits (by decide)
  | sparseZero => exact small hbits (by decide)
  | sparseOne s => exact small hbits (by simp)
  | sparseMany n w pairs =>
    cases hbits
    cases ctx with
    | sparse => exact .inr ⟨rfl, sparseMany_length_le hwf⟩
    | _ => cases hreads
  | gammaHeader f k => exact small hbits (by simp)
  | gammaZeroRun n b => exact code hbits (by omega)
  | gammaRunCount n b => exact code hbits (by omega)
  | gammaResidual f q b => exact code hbits (by have := f.isLt; omega)
  | gammaCode c n b => exact code hbits (by omega)
  | distanceSmall c cb x => exact small hbits (by rw [bitsOfNat_length]; have := distanceBits_le cb; omega)
  | distanceLarge c cb x y =>
    exact small hbits (by rw [List.length_append, bitsOfNat_length, bitsOf_length]; have := distanceBits_le cb; omega)
  | lengthCode c n b => exact code hbits (by omega)
  | sideCountCode n b => exact code hbits (by omega)
  | moreThan24 c n b =>
    have hn : n ≤ 26 := by
      rw [Instr.wf, Bool.and_eq_true, decide_eq_true_eq] at hwf
      exact hwf.1
    exact small hbits (by rw [bitsOfNat_length]; omega)
  | _ => cases hat

/-- Bits that stand among those looked at are the next ones read. -/
theorem Cursor.reads_of_padded {src : Source} {c : Cursor} {k n : Nat} {bits : Bits} (hlen : bits.length ≤ 8 * k)
    (h : bits <+: c.upcoming src k ++ List.replicate n false) : c.reads src bits := by
  have hge : ∀ j, 8 * j ≤ (c.upcoming src j).length := fun j => by
    rw [Cursor.upcoming, List.length_append, Cursor.nextBytes_length]
    exact Nat.le_add_left _ _
  have hshown : bits <+: c.upcoming src k :=
    List.prefix_of_prefix_length_le h (List.prefix_append _ _) (Nat.le_trans hlen (hge k))
  have hmore : bits <+: c.upcoming src (max k bits.length) := hshown.trans (Cursor.upcoming_prefix (Nat.le_max_left _ _))
  exact List.prefix_of_prefix_length_le hmore (Cursor.upcoming_prefix (Nat.le_max_right _ _))
    (Nat.le_trans (Nat.le_mul_of_pos_left _ (by decide)) (hge bits.length))

/-- What a context's cursor reads next is what its elements are decoded from. -/
theorem supply_eq_upcoming {ctx : Ctx} {c : CSel} (h : ctx.readAt = some c) (s : State) :
    s.supply ctx = (s.cursor c).upcoming s.source (lookahead ctx) := by
  cases ctx with
  | selector | sparse | gammaHeader | gammaZero | gammaRun | residual | gammaCode | distance | lengthCode | sideCount
  | moreThan24 => cases h; rfl
  | _ => cases h

/-- What an element that the engine expects says of the state: a stream header's place, the bits in force for a residual (R197);
a command or a field of plain bits is never expected. -/
def Ctx.expectedIn (s : State) : Ctx → Prop
  | .streamHeader => s.ctl = .streamHeader
  | .residual f => f = s.tmp.forcedBits
  | .ctrl | .moreThan24 _ _ => False
  | _ => True

theorem expectedIn_of_expects {s : State} {ctx : Ctx} (h : s.expects = some ctx) : Ctx.expectedIn s ctx := by
  unfold State.expects at h
  cases hctl : s.ctl with
  | streamHeader =>
    rw [hctl] at h
    cases h
    exact hctl
  | gammaResidual =>
    rw [hctl] at h
    cases h
    rfl
  | blockHeader =>
    rw [hctl] at h
    cases h
    split <;> trivial
  | offsets | sideValues | lengths =>
    rw [hctl] at h
    dsimp only at h
    split at h <;> cases h
    trivial
  | subHeader | lzFlag | chunk | selector | sparse | gammaHeader | gammaZero | gammaRun | lzScaling | sideCount =>
    rw [hctl] at h
    cases h
    trivial
  | idle | blockStart | blockEntry | blockBody | quantumLoop | tableStart | gammaFinish | codesDone | unpackStart
  | sideStore | lzRuns | blockEnd =>
    rw [hctl] at h
    cases h

theorem width_of_expects {s : State} {ctx : Ctx} (h : s.expects = some ctx) (c : CSel) (n : Nat)
    (hctx : ctx = .moreThan24 c n) : n ≤ 26 := by
  subst hctx
  exact (expectedIn_of_expects h).elim

/-- What the engine reads as the element it expects stands there. -/
theorem holds_of_decode {s : State} {ctx : Ctx} {i : Instr} (hexpects : s.expects = some ctx)
    (hdecode : decode ctx (s.supply ctx) = .ok i) : s.holds i := by
  have hwide := width_of_expects hexpects
  obtain ⟨hadmits, hencoded⟩ := encodeDecode ctx i _ hwide hdecode
  have hreads := (Bool.and_eq_true_iff.1 hadmits).1
  refine ⟨fun c bits hat hbits => ?_, fun f q b hi => ?_⟩
  · have hprefix := hencoded bits hbits
    rw [supply_eq_upcoming ((Ctx.readAt_of_reads hreads).symm.trans hat)] at hprefix
    exact Cursor.reads_of_padded (length_le_lookahead hadmits hat hwide hbits) hprefix
  · subst hi
    cases ctx with
    | residual f' => exact (eq_of_beq hreads).symm.trans (expectedIn_of_expects hexpects)
    | _ => cases hreads

end Machine
end Sys2Proof
end

section
/-! The engine's own step (R301, R310), said once: what each of its parts leaves, and what a step may be refused for. -/

namespace Sys2Proof.Machine

/-! ### The block step's own parts -/

/-- R301: a block step has started. -/
def State.blockStarted (s : State) : State :=
  { s with loc := { s.loc with s := s.sp }, ctl := if s.off % 262144 = 0 then .streamHeader else .blockEntry }

theorem blockStart_run (s : State) : blockStart s = .ok () s.blockStarted := rfl

/-- R161: a legal stream header has been read. -/
def State.headerRead (s : State) (h : StreamHeader) : State :=
  { s with sh := h, regs := { s.regs with savedHdr := savedHdrOf h }, loc := { s.loc with s := s.loc.s + 2 },
           ctl := .blockEntry }

/-- R162, R302: the size of the block that starts. -/
def State.nextSize (s : State) : Nat :=
  min (if s.sh.family = .lzna ∨ s.sh.family = .bitknit then 16384 else 262144) (s.dstLen - s.off)

theorem blockSize_eq (fam : Family) : blockSize fam = if fam = .lzna ∨ fam = .bitknit then 16384 else 262144 := by
  simp only [blockSize, Family.isLzna, params_lznaGroup, decide_eq_true_eq]

/-- R301, R302: the block's size is chosen. -/
def State.entered (s : State) : State :=
  { s with phase := .decodeBlock, loc := { s.loc with bs := s.nextSize } }

theorem blockEntry_compressed {s : State} (h : s.sh.uncompressed = false) :
    blockEntry params s = .ok () (s.entered.setCtl .blockHeader) := by
  simp only [blockEntry, Eng.bind_run, update_run, getState_run, updateLoc_run, State.setPhase_sh, h, Bool.false_eq_true,
    if_false, goto_run, blockSize_eq]
  rfl

theorem nextSize_fits (s : State) : s.nextSize = 0 ∨ s.off + s.nextSize ≤ s.dstLen := by
  unfold State.nextSize
  omega

/-- R303: an uncompressed stream's block is copied. -/
theorem blockEntry_uncompressed {s : State} (h : s.sh.uncompressed = true) :
    blockEntry params s =
      (do
        require (decide (s.loc.s + s.nextSize ≤ s.srcLen)) .e10
        copySrc s.off s.loc.s s.nextSize
        updateLoc fun l => { l with s := l.s + s.nextSize }
        goto .blockEnd) s.entered := by
  simp only [blockEntry, Eng.bind_run, update_run, getState_run, updateLoc_run, State.setPhase_sh, h, if_true, blockSize_eq]
  rfl

theorem blockEntry_copied {s : State} (h : s.sh.uncompressed = true) (hsrc : s.loc.s + s.nextSize ≤ s.srcLen) :
    blockEntry params s = .ok ()
      { s.entered with dst := Memory.writeList s.dst s.off (srcValues s.src s.loc.s s.nextSize),
                       loc := { s.entered.loc with s := s.loc.s + s.nextSize }, ctl := .blockEnd } := by
  have hcopy := copySrc_ok (s := s.entered) (n := s.nextSize) (.inr hsrc) (nextSize_fits s)
  rw [blockEntry_uncompressed h, decide_eq_true hsrc, Eng.bind_ok (require_true _ _), Eng.bind_ok hcopy]
  rfl

theorem blockEntry_truncated {s : State} (h : s.sh.uncompressed = true) (hsrc : s.srcLen < s.loc.s + s.nextSize) :
    blockEntry params s = .error (.raise .e10) s.entered := by
  rw [blockEntry_uncompressed h, decide_eq_false (Nat.not_le.2 hsrc), Eng.bind_error (require_false _ _)]

/-- R313, R315: a block is done. -/
def State.blockEnded (s : State) : State :=
  if s.off + s.loc.bs = s.dstLen then
    { s with sp := s.loc.s, off := s.off + s.loc.bs, phase := .finished, ctl := .idle,
             regs := { s.regs with status := 2#32, srcUsed := BitVec.ofNat 32 s.loc.s, dstUsed := s.regs.dstLen } }
  else
    { s with sp := s.loc.s, off := s.off + s.loc.bs, ctl := .blockStart,
             phase := if (s.off + s.loc.bs) % 262144 = 0 then .expectStreamHeader else s.phase }

theorem blockEnd_run (s : State) : blockEnd s = .ok () s.blockEnded := by
  unfold State.blockEnded
  by_cases hlast : s.off + s.loc.bs = s.dstLen
  · have hend : (s.setPos s.loc.s (s.off + s.loc.bs)).off = (s.setPos s.loc.s (s.off + s.loc.bs)).dstLen := hlast
    simp only [blockEnd, Eng.bind_run, update_run, getState_run, if_pos hend, if_pos hlast]
    rfl
  · have hend : ¬ (s.setPos s.loc.s (s.off + s.loc.bs)).off = (s.setPos s.loc.s (s.off + s.loc.bs)).dstLen := hlast
    simp only [blockEnd, Eng.bind_run, update_run, getState_run, if_neg hend, if_neg hlast]
    by_cases hperiod : (s.off + s.loc.bs) % 262144 = 0
    · have hnext : (s.setPos s.loc.s (s.off + s.loc.bs)).off % headerPeriod = 0 := hperiod
      simp only [if_pos hperiod, if_pos hnext]
      rfl
    · have hnext : ¬ (s.setPos s.loc.s (s.off + s.loc.bs)).off % headerPeriod = 0 := hperiod
      simp only [if_neg hperiod, if_neg hnext]
      rfl

/-! ### The engine's step -/

/-- The states that a step of the engine can lead to (no operation being issued on its own). -/
inductive EngineStep (s : State) : State → Prop
  /-- An idle engine stays as it is. -/
  | idle (hctl : s.ctl = .idle) : EngineStep s s
  /-- R301. -/
  | start (hctl : s.ctl = .blockStart) : EngineStep s s.blockStarted
  /-- R161. -/
  | header (h : StreamHeader) (hctl : s.ctl = .streamHeader) : EngineStep s (s.headerRead h)
  /-- R301 to R303. -/
  | entry {t : State} (hctl : s.ctl = .blockEntry) (hframe : Framed s t) (hregs : t.regs = s.regs) (hsp : t.sp = s.sp)
    (hoff : t.off = s.off) (hphase : t.phase = .decodeBlock) (hbs : t.loc.bs = s.nextSize) (hs : s.loc.s ≤ t.loc.s)
    (hblock : t.ctl.inBlock) : EngineStep s t
  /-- The work inside a block. -/
  | work {t : State} (hctl : s.ctl.inBlock) (h : Worked s t) : EngineStep s t
  /-- R313, R315. -/
  | blockEnd (hctl : s.ctl = .blockEnd) : EngineStep s s.blockEnded
  /-- R341. -/
  | fault (c : Cause) {u : State} (hctl : s.ctl ≠ .idle) (h : Framed s u) (hregs : u.regs = s.regs) :
    EngineStep s (takeFault c u)

/-- The outcome is one of a step of the engine; it is refused neither for an element that is not at its cursor nor for one without
a meaning. -/
def EngineOutcome (s : State) : Host.Outcome State Fault Refusal → Prop
  | .next t => EngineStep s t
  | .fault _ => True
  | .refused r => r.Permitted

/-- Work inside a block settles in a step of the engine. -/
theorem Works.outcome {m : Eng Unit} (h : Works m) {s s' : State} (hs : Worked s s') (hctl : s.ctl.inBlock) :
    EngineOutcome s (settle m s') := by
  unfold settle
  cases hm : m s' with
  | ok x t => exact .work hctl (hs.trans (h.ok hm))
  | error e t =>
    cases e with
    | raise c =>
      have hst := hs.trans (h.raised hm)
      exact .fault c hctl.1 hst.toFramed hst.regs
    | fault f => trivial
    | refuse r => exact h.permitted hm

/-- The sequencer's computations inside a block work there. -/
theorem sequence_works {c : Ctl} (hc : c.inBlock) (hend : c ≠ .blockEnd) : Works (sequence c) := by
  cases c with
  | idle => exact absurd rfl hc.1
  | blockStart => exact absurd rfl hc.2.1
  | streamHeader => exact absurd rfl hc.2.2.1
  | blockEntry => exact absurd rfl hc.2.2.2
  | blockEnd => exact absurd rfl hend
  | blockBody => exact Works.blockBody
  | quantumLoop => exact Works.quantumLoop
  | tableStart => exact Works.tableStart
  | gammaFinish => exact Works.gammaFinish
  | codesDone => exact Works.codesDone _
  | unpackStart => exact Works.unpackStart _
  | offsets => exact Works.offsetsDone
  | sideStore => exact Works.sideStore
  | sideValues => exact Works.sideDone
  | lengths => exact Works.lengthsDone
  | lzRuns => exact Works.lzRuns _
  | blockHeader | subHeader | lzFlag | chunk | selector | sparse | gammaHeader | gammaZero | gammaRun | gammaResidual
  | lzScaling | sideCount => exact Works.pure ()

theorem Worked.taken (s : State) : Worked s s.taken := by
  unfold State.taken
  split
  · exact Worked.setCtl s (by decide)
  · exact Worked.refl s

/-- Taking an element leaves what stands at its cursor. -/
theorem holds_taken {s : State} {i : Instr} (h : s.holds i) : s.taken.holds i := by
  unfold State.taken
  split
  · obtain ⟨hbits, hforced⟩ := h
    refine ⟨fun c bits hat hi => ?_, hforced⟩
    rw [State.setCtl_cursor, State.setCtl_source]
    exact hbits c bits hat hi
  · exact h

/-- The rows that a context inside a block reads are no commands. -/
theorem Ctx.isCommand_of_reads {ctx : Ctx} {i : Instr} (h : ctx.reads i = true) (hctrl : ctx ≠ .ctrl)
    (hheader : ctx ≠ .streamHeader) : i.isCommand = false := by
  cases i with
  | ctrlStart | ctrlSoftReset | ctrlForgetStream => cases ctx with
    | ctrl => exact absurd rfl hctrl
    | _ => cases h
  | streamHeaderLzna | streamHeaderKraken | streamHeaderMermaid | streamHeaderBitknit | streamHeaderLeviathan =>
    cases ctx with
    | streamHeader => exact absurd rfl hheader
    | _ => cases h
  | _ => rfl

/-- A step inside a block. -/
theorem engineStep_inBlock {s : State} (hdirect : s.direct = []) (hctl : s.ctl.inBlock) (hend : s.ctl ≠ .blockEnd) :
    EngineOutcome s (engineStep s) := by
  unfold engineStep
  rw [hdirect]
  cases hexpects : s.expects with
  | none => exact (sequence_works hctl hend).outcome (Worked.refl s) hctl
  | some ctx =>
    have hplace := expectedIn_of_expects hexpects
    have hctrl : ctx ≠ .ctrl := by rintro rfl; exact hplace
    have hheader : ctx ≠ .streamHeader := by rintro rfl; exact hctl.2.2.1 hplace
    have hwide := width_of_expects hexpects
    simp only [params_grammar]
    cases hdecode : decode ctx (s.supply ctx) with
    | error e => exact (Works.unreadable e).outcome (Worked.refl s) hctl
    | ok i =>
      have hreads := (Bool.and_eq_true_iff.1 (encodeDecode ctx i _ hwide hdecode).1).1
      obtain ⟨m, hworks, hexec | ⟨hnot, -⟩⟩ := exec_executes (Ctx.isCommand_of_reads hreads hctrl hheader) s.taken
      · simp only [hexec]
        exact hworks.outcome (Worked.taken s) hctl
      · exact absurd (holds_taken (holds_of_decode hexpects hdecode)) hnot

theorem State.expects_eq_none {s : State} (h : s.ctl = .idle ∨ s.ctl = .blockStart ∨ s.ctl = .blockEntry ∨ s.ctl = .blockEnd) :
    s.expects = none := by
  unfold State.expects
  obtain hctl | hctl | hctl | hctl := h <;> rw [hctl]

/-- Where no element is expected the engine takes the sequencer's step. -/
theorem engineStep_eq_sequence {s : State} (hdirect : s.direct = []) (h : s.expects = none) :
    engineStep s = settle (sequence s.ctl) s := by
  simp only [engineStep, hdirect, h]

theorem Framed.entered (s : State) : Framed s s.entered := { Framed.refl s with }

theorem engineStep_blockEntry {s : State} (hdirect : s.direct = []) (hctl : s.ctl = .blockEntry) :
    EngineOutcome s (engineStep s) := by
  rw [engineStep_eq_sequence hdirect (State.expects_eq_none (by simp [hctl])), hctl]
  cases hmode : s.sh.uncompressed with
  | false =>
    have hrun : sequence .blockEntry params s = .ok () _ := blockEntry_compressed hmode
    rw [settle_ok hrun]
    exact .entry hctl { Framed.refl s with } rfl rfl rfl rfl rfl (Nat.le_refl _) (show Ctl.blockHeader.inBlock by decide)
  | true =>
    by_cases hsrc : s.loc.s + s.nextSize ≤ s.srcLen
    · have hrun : sequence .blockEntry params s = .ok () _ := blockEntry_copied hmode hsrc
      rw [settle_ok hrun]
      refine .entry hctl ?_ rfl rfl rfl rfl rfl (Nat.le_add_right _ _) (show Ctl.blockEnd.inBlock by decide)
      have hframe := (Worked.setDst_writeList (s := s) (i := s.off) (bs := srcValues s.src s.loc.s s.nextSize) ?_).toFramed
      · exact { hframe with }
      · obtain h0 | hfits := nextSize_fits s
        · exact .inl (by rw [h0]; rfl)
        · exact .inr (by rwa [srcValues_length])
    · have hrun : sequence .blockEntry params s = .error (.raise .e10) _ := blockEntry_truncated hmode (Nat.lt_of_not_le hsrc)
      rw [settle_raise hrun]
      exact .fault .e10 (by rw [hctl]; decide) (Framed.entered s) rfl

/-- R163: a stream header cut short is a row of its own, so that one can always be read. -/
theorem decodeStreamHeader_ok (bs : Bits) : ∃ i, decodeStreamHeader bs = .ok i := by
  simp only [decodeStreamHeader]
  repeat' split
  all_goals exact ⟨_, rfl⟩

/-- R161: a stream header is read, or faults. -/
theorem exec_streamHeader {i : Instr} (h : Ctx.streamHeader.reads i = true) (s : State) :
    (∃ sh, exec i s = .next (s.headerRead sh)) ∨ ∃ c, exec i s = .next (takeFault c s) := by
  cases i with
  | streamHeaderLzna | streamHeaderKraken | streamHeaderMermaid | streamHeaderBitknit | streamHeaderLeviathan =>
    exact .inl ⟨_, rfl⟩
  | streamHeaderBadMagic | streamHeaderBadReserved | streamHeaderBadFamily | streamHeaderTruncated =>
    exact .inr ⟨_, rfl⟩
  | _ => cases h

theorem engineStep_streamHeader {s : State} (hdirect : s.direct = []) (hctl : s.ctl = .streamHeader) :
    EngineOutcome s (engineStep s) := by
  have hexpects : s.expects = some .streamHeader := by simp only [State.expects, hctl]
  have htaken : s.taken = s := by simp [State.taken, hctl]
  obtain ⟨i, hdecode⟩ := decodeStreamHeader_ok (s.supply .streamHeader)
  have hreads := (Bool.and_eq_true_iff.1 (encodeDecode .streamHeader i _ (fun _ _ h => by cases h) hdecode).1).1
  have hstep : engineStep s = exec i s := by
    simp only [engineStep, hdirect, hexpects, params_grammar, decode_streamHeader, hdecode, htaken]
  rw [hstep]
  obtain ⟨sh, hexec⟩ | ⟨c, hexec⟩ := exec_streamHeader hreads s
  · rw [hexec]
    exact .header sh hctl
  · rw [hexec]
    exact .fault c (by rw [hctl]; decide) (Framed.refl s) rfl

/-- What the engine's step does, wherever the sequencer stands. -/
theorem engineStep_outcome {s : State} (hdirect : s.direct = []) : EngineOutcome s (engineStep s) := by
  by_cases hblock : s.ctl.inBlock ∧ s.ctl ≠ .blockEnd
  · exact engineStep_inBlock hdirect hblock.1 hblock.2
  cases hctl : s.ctl with
  | idle =>
    rw [engineStep_eq_sequence hdirect (State.expects_eq_none (by simp [hctl])), hctl]
    exact .idle hctl
  | blockStart =>
    rw [engineStep_eq_sequence hdirect (State.expects_eq_none (by simp [hctl])), hctl]
    exact .start hctl
  | streamHeader => exact engineStep_streamHeader hdirect hctl
  | blockEntry => exact engineStep_blockEntry hdirect hctl
  | blockEnd =>
    rw [engineStep_eq_sequence hdirect (State.expects_eq_none (by simp [hctl])), hctl,
      show settle (sequence .blockEnd) s = .next s.blockEnded from settle_ok (blockEnd_run s)]
    exact .blockEnd hctl
  | _ => exact absurd (by rw [hctl]; decide) hblock

end Sys2Proof.Machine
end

section
/-! What a step leaves (R26, R33, R301, R341): the host's commands and accesses said once, and the invariant of every run. -/

namespace Sys2Proof.Machine

/-! ### The fault action -/

/-- R341: what the fault action leaves of the state, whatever the cause. -/
theorem takeFault_frame (c : Cause) (s : State) :
    ∃ d x y, takeFault c s =
      { s with dst := d, regs := { s.regs with status := faultStatus c.cls.number c.number, srcUsed := x, dstUsed := y },
               phase := if c.cls = .earlyStop then .stopped else .faulted, ctl := .idle } := by
  refine ⟨(s.freeDst (Config.keepAfterFault s.jobInputs)).dst, if c = .e47 then 0 else BitVec.ofNat 32 s.sp,
    if c = .e47 then 0 else BitVec.ofNat 32 s.off, ?_⟩
  rw [takeFault, ← statusFault_eq, (State.freeDst_spec _ s).1]
  rfl

theorem takeFault_memories {c : Cause} {s : State} (h : s.memoriesCanonical) : (takeFault c s).memoriesCanonical :=
  State.freeDst_memories (keep := Config.keepAfterFault s.jobInputs) h

theorem Framed.memories {s t : State} (h : Framed s t) (hs : s.memoriesCanonical) : t.memoriesCanonical := by
  obtain ⟨hsrc, hdst, hdst0, hsyms⟩ := hs
  exact ⟨by rw [h.src]; exact hsrc, h.dstWf hdst, by rw [h.dst0]; exact hdst0, h.symsWf hsyms⟩

/-! ### The host's commands (R32) -/

/-- R21, R370: fresh working records, of which only that `CT.syms` holds no value is said. -/
theorem freeWork_frame (s : State) :
    ∃ sh bh a b p lt tmp n, s.freeWork =
      { s with sh := sh, bh := bh, a := a, b := b, ct := { syms := [], codePrefix := p }, lt := lt, tmp := tmp,
               fresh := n } :=
  ⟨_, _, _, _, _, _, _, _, rfl⟩

/-- R300: START has checked the output's size and created the working records. -/
def State.jobStarted (s : State) : State :=
  ((s.setDst0 s.dst).freeWork.setRegs { s.regs with status := statusBusy }).setPos 0 0

theorem jobStarted_frame (s : State) :
    ∃ sh bh a b p lt tmp n, s.jobStarted =
      { s with dst0 := s.dst, regs := { s.regs with status := 1#32 }, sp := 0, off := 0, sh := sh, bh := bh, a := a, b := b,
               ct := { syms := [], codePrefix := p }, lt := lt, tmp := tmp, fresh := n } := by
  obtain ⟨sh, bh, a, b, p, lt, tmp, n, hfree⟩ := freeWork_frame (s.setDst0 s.dst)
  refine ⟨sh, bh, a, b, p, lt, tmp, n, ?_⟩
  rw [State.jobStarted, hfree]
  rfl

/-- R370, R371: what a reset leaves. -/
theorem softReset_frame (s : State) :
    ∃ sh bh a b p lt tmp n, s.softReset =
      { s with regs := { status := 0, srcLen := 0, dstLen := 0, srcUsed := 0, dstUsed := 0,
                         savedHdr := clearValid s.regs.savedHdr },
               phase := .idle, sp := 0, off := 0, ctl := .idle, dst := (s.freeDst (Config.keepAfterReset s.fresh)).dst,
               sh := sh, bh := bh, a := a, b := b, ct := { syms := [], codePrefix := p }, lt := lt, tmp := tmp,
               fresh := n } := by
  obtain ⟨sh, bh, a, b, p, lt, tmp, n, hfree⟩ := freeWork_frame (s.freeDst (Config.keepAfterReset s.fresh))
  refine ⟨sh, bh, a, b, p, lt, tmp, n, ?_⟩
  rw [State.softReset, hfree, (State.freeDst_spec _ s).1]
  rfl

theorem softReset_memories {s : State} (h : s.memoriesCanonical) : s.softReset.memoriesCanonical := by
  obtain ⟨-, hdst, -⟩ := State.freeDst_memories (keep := Config.keepAfterReset s.fresh) h
  obtain ⟨sh, bh, a, b, p, lt, tmp, n, hreset⟩ := softReset_frame s
  rw [hreset]
  exact ⟨h.1, hdst, h.2.2.1, rfl⟩

theorem jobStarted_memories {s : State} (h : s.memoriesCanonical) : s.jobStarted.memoriesCanonical := by
  obtain ⟨sh, bh, a, b, p, lt, tmp, n, hstart⟩ := jobStarted_frame s
  rw [hstart]
  exact ⟨h.1, h.2.1, h.2.1, rfl⟩

theorem startJob_tooLong {s : State} {limit : Nat} (h : limit < s.dstLen) :
    startJob limit s = .error (.raise .e47) (s.setDst0 s.dst) := by
  simp only [startJob, Eng.bind_run, getState_run, update_run, decide_eq_false (Nat.not_le.2 h), require_false]

theorem startJob_empty {s : State} {limit : Nat} (h : s.dstLen ≤ limit) (hzero : s.dstLen = 0) :
    startJob limit s = .ok () s.jobStarted.finishJob := by
  simp only [startJob, Eng.bind_run, getState_run, update_run, decide_eq_true h, require_true, if_pos hzero]
  rfl

theorem startJob_begun {s : State} {limit : Nat} (h : s.dstLen ≤ limit) (hzero : s.dstLen ≠ 0) :
    startJob limit s = .ok () ((s.jobStarted.setPhase .expectStreamHeader).setCtl .blockStart) := by
  simp only [startJob, Eng.bind_run, getState_run, update_run, decide_eq_true h, require_true, if_neg hzero, goto_run]
  rfl

/-- The states a command of the host can lead to. -/
inductive CommandStep (s : State) : State → Prop
  | ignored (hbusy : s.busy = true) : CommandStep s s
  | forgotten (hidle : s.busy = false) : CommandStep s s.forgetStream
  | reset : CommandStep s s.softReset
  | tooLong {u : State} (hidle : s.busy = false) (hu : u = s ∨ u = s.forgetStream) :
    CommandStep s (takeFault .e47 (u.setDst0 u.dst))
  | empty {u : State} (hidle : s.busy = false) (hu : u = s ∨ u = s.forgetStream) (hzero : u.dstLen = 0) :
    CommandStep s u.jobStarted.finishJob
  | begun {u : State} (hidle : s.busy = false) (hu : u = s ∨ u = s.forgetStream) (hpos : u.dstLen ≠ 0) :
    CommandStep s ((u.jobStarted.setPhase .expectStreamHeader).setCtl .blockStart)

theorem exec_start (x : BitVec 29) (f : Bool) (s : State) :
    ∃ t, exec (.ctrlStart x f) s = .next t ∧ CommandStep s t := by
  show ∃ t, execCtrlStart f s = .next t ∧ _
  unfold execCtrlStart
  cases hbusy : s.busy with
  | true => exact ⟨s, rfl, .ignored hbusy⟩
  | false =>
    simp only [Bool.false_eq_true, if_false]
    have hu : (if f = true then s.forgetStream else s) = s ∨ (if f = true then s.forgetStream else s) = s.forgetStream := by
      cases f
      · exact .inl rfl
      · exact .inr rfl
    generalize (if f = true then s.forgetStream else s) = u at hu
    by_cases hlong : u.dstLen ≤ Config.maxDstLen
    · by_cases hzero : u.dstLen = 0
      · exact ⟨_, settle_ok (startJob_empty hlong hzero), .empty hbusy hu hzero⟩
      · exact ⟨_, settle_ok (startJob_begun hlong hzero), .begun hbusy hu hzero⟩
    · exact ⟨_, settle_raise (startJob_tooLong (Nat.lt_of_not_le hlong)), .tooLong hbusy hu⟩

/-- What a command does. -/
theorem exec_command {i : Instr} (h : Ctx.ctrl.reads i = true) (s : State) :
    ∃ t, exec i s = .next t ∧ CommandStep s t := by
  cases i with
  | ctrlStart x f => exact exec_start x f s
  | ctrlSoftReset => exact ⟨_, rfl, .reset⟩
  | ctrlForgetStream =>
    show ∃ t, execCtrlForgetStream s = .next t ∧ _
    unfold execCtrlForgetStream
    cases hbusy : s.busy with
    | true => exact ⟨s, rfl, .ignored hbusy⟩
    | false => exact ⟨_, rfl, .forgotten hbusy⟩
  | _ => cases h

/-! ### The host's accesses -/

/-- The states an access of the host can lead to. -/
inductive HostStep (s : State) : State → Prop
  | command {t : State} (h : CommandStep s t) : HostStep s t
  | nothing : HostStep s s
  | read (v : Word) (n : Nat) : HostStep s ((s.setHostData v).setFresh n)
  | lengths (x y : Word) (hidle : s.busy = false) : HostStep s (s.setRegs { s.regs with srcLen := x, dstLen := y })
  | srcWrite (a : Nat) (b : Byte) (hidle : s.busy = false) : HostStep s (s.setSrc (Memory.write s.src a b))
  | dstWrite (a : Nat) (b : Byte) (hidle : s.busy = false) : HostStep s (s.setDst (Memory.write s.dst a b))

theorem HostStep.setHostData (s : State) (v : Word) : HostStep s (s.setHostData v) :=
  .read v s.fresh

def HostOutcome (s : State) : Host.Outcome State Fault Refusal → Prop
  | .next t => HostStep s t
  | .fault _ => True
  | .refused r => r.Permitted

theorem writeCtrl_outcome (v : Word) (s : State) : HostOutcome s (writeCtrl v s) := by
  unfold writeCtrl
  simp only [params_grammar]
  cases hdecode : decode .ctrl (bitsOf v) with
  | error e => exact .nothing
  | ok i =>
    have hreads := (Bool.and_eq_true_iff.1 (encodeDecode .ctrl i _ (fun _ _ h => by cases h) hdecode).1).1
    obtain ⟨t, hexec, hstep⟩ := exec_command hreads s
    simp only [hexec]
    exact .command hstep

theorem writeRegister_step (s : State) (word : Nat) (v : Word) : HostStep s (s.writeRegister word v) := by
  unfold State.writeRegister
  cases hbusy : s.busy with
  | true => exact .nothing
  | false =>
    simp only [Bool.false_eq_true, if_false]
    split
    · exact .lengths v s.regs.dstLen hbusy
    · exact .lengths s.regs.srcLen v hbusy
    · exact .nothing

theorem readRegister_step (s : State) (word : Nat) : HostStep s (s.readRegister word) := by
  unfold State.readRegister
  split
  · exact .read _ _
  · exact .setHostData s _

theorem whileIdle_outcome {s : State} {o : Host.Outcome State Fault Refusal} (h : s.busy = false → HostOutcome s o) :
    HostOutcome s (whileIdle s o) := by
  unfold whileIdle
  cases hbusy : s.busy with
  | true => exact ⟨by decide, fun m => by simp⟩
  | false => exact h hbusy

theorem hostAccess_outcome (op : HostOp) (s : State) : HostOutcome s (hostAccess op s) := by
  cases op with
  | regWrite word v =>
    show HostOutcome s (if word = 0 then writeCtrl v s else .next (s.writeRegister word v))
    split
    · exact writeCtrl_outcome v s
    · exact writeRegister_step s word v
  | regRead word => exact readRegister_step s word
  | srcWrite a b =>
    refine whileIdle_outcome fun hidle => ?_
    split
    · exact .srcWrite a b hidle
    · trivial
  | dstRead a =>
    refine whileIdle_outcome fun hidle => ?_
    split
    · exact .setHostData s _
    · trivial
  | dstWrite a b =>
    refine whileIdle_outcome fun hidle => ?_
    split
    · exact .dstWrite a b hidle
    · trivial

/-- A step is an access of the host, or the engine's own step with the host's waiting access counted down. -/
theorem step_cases (s : State) :
    (s.boundary = true ∧ ∃ op rest, step s = hostAccess op (s.setHost rest)) ∨
    (∃ host, step s = engineStep (s.setHost host) ∧ (s.boundary = false → host = s.host)) := by
  unfold step machineStep
  cases hb : s.boundary with
  | false => exact .inr ⟨s.host, rfl, fun _ => rfl⟩
  | true =>
    simp only [if_true]
    cases hhost : s.host with
    | nil => exact .inr ⟨[], by rw [show s.setHost [] = s from hhost ▸ rfl], fun h => by cases h⟩
    | cons e rest =>
      obtain ⟨n, op⟩ := e
      cases n with
      | zero => exact .inl ⟨trivial, op, rest, rfl⟩
      | succ n => exact .inr ⟨_, rfl, fun h => by cases h⟩

/-! ### STATUS and SAVED_HDR -/

theorem busyBit_faultStatus (c : Cause) : busyBit (faultStatus c.cls.number c.number) = false := by
  cases c <;> rfl

theorem savedHdrOf_reserved (h : StreamHeader) : savedHdrOf h &&& 0x7FFFFC00#32 = 0#32 := by
  obtain ⟨fam, r, u, c⟩ := h
  revert r u c
  cases fam <;> decide

theorem clearValid_reserved {w : Word} (h : w &&& 0x7FFFFC00#32 = 0#32) : clearValid w &&& 0x7FFFFC00#32 = 0#32 := by
  rw [clearValid, BitVec.and_assoc, BitVec.and_comm 0x7FFFFFFF#32, ← BitVec.and_assoc, h, BitVec.zero_and]

theorem State.statusAgrees.busy_iff {s : State} (h : s.statusAgrees) : s.busy = true ↔ s.ctl ≠ .idle := by
  obtain ⟨hstatus, hctl, -⟩ | ⟨hctl, hend⟩ := h
  · simp [State.busy, hstatus, hctl, busyBit]
  · have hidle : s.busy = false := by
      obtain ⟨hstatus, -⟩ | ⟨hstatus, -⟩ | ⟨hstatus, -⟩ | ⟨c, -, hstatus, -⟩ := hend
      · rw [State.busy, hstatus]; rfl
      · rw [State.busy, hstatus]; rfl
      · rw [State.busy, hstatus]; rfl
      · rw [State.busy, hstatus, busyBit_faultStatus]
    simp [hidle, hctl]

theorem State.statusAgrees.running {s : State} (h : s.statusAgrees) (hctl : s.ctl ≠ .idle) :
    s.regs.status = 1#32 ∧ (s.phase = .expectStreamHeader ∨ s.phase = .decodeBlock) := by
  obtain ⟨hstatus, -, hphase⟩ | ⟨hidle, -⟩ := h
  · exact ⟨hstatus, hphase⟩
  · exact absurd hidle hctl

/-! ### The invariant, state by state -/

theorem takeFault_inv {c : Cause} {u : State} (hdirect : u.direct = []) (hmem : u.memoriesCanonical)
    (hsaved : u.savedHdrReserved) : (takeFault c u).Inv := by
  have hmem' := takeFault_memories (c := c) hmem
  obtain ⟨d, x, y, hfault⟩ := takeFault_frame c u
  rw [hfault] at hmem' ⊢
  refine ⟨hdirect, hmem', .inr ⟨rfl, ?_⟩, fun h => absurd rfl h, hsaved⟩
  by_cases hstop : c.cls = .earlyStop
  · obtain rfl := (earlyStop_iff c).1 hstop
    exact .inr (.inr (.inl ⟨rfl, rfl⟩))
  · exact .inr (.inr (.inr ⟨c, hstop, rfl, if_neg hstop⟩))

theorem blockStarted_inv {s : State} (h : s.Inv) (hctl : s.ctl = .blockStart) : s.blockStarted.Inv := by
  have hne : s.ctl ≠ .idle := by rw [hctl]; decide
  obtain ⟨hstatus, hphase⟩ := h.status.running hne
  have hnext : s.blockStarted.ctl = .streamHeader ∨ s.blockStarted.ctl = .blockEntry := by
    show (if _ then _ else _) = _ ∨ (if _ then _ else _) = _
    split
    · exact .inl rfl
    · exact .inr rfl
  refine ⟨h.direct, h.memories, .inl ⟨hstatus, ?_, hphase⟩, fun _ => ⟨(h.block hne).1, fun _ => Nat.le_refl _, fun hin => ?_⟩,
    h.saved⟩
  · obtain h | h := hnext <;> rw [h] <;> decide
  · obtain h | h := hnext
    · exact absurd h hin.2.2.1
    · exact absurd h hin.2.2.2

theorem headerRead_inv {s : State} (h : s.Inv) (sh : StreamHeader) (hctl : s.ctl = .streamHeader) : (s.headerRead sh).Inv := by
  have hne : s.ctl ≠ .idle := by rw [hctl]; decide
  obtain ⟨hstatus, hphase⟩ := h.status.running hne
  obtain ⟨hoff, hs, -⟩ := h.block hne
  have hs' := hs (by rw [hctl]; decide)
  exact ⟨h.direct, h.memories, .inl ⟨hstatus, show Ctl.blockEntry ≠ .idle by decide, hphase⟩,
    fun _ => ⟨hoff, fun _ => Nat.le_trans hs' (Nat.le_add_right _ _), fun hin => absurd rfl hin.2.2.2⟩, savedHdrOf_reserved sh⟩

theorem blockEnded_inv {s : State} (h : s.Inv) (hctl : s.ctl = .blockEnd) : s.blockEnded.Inv := by
  have hne : s.ctl ≠ .idle := by rw [hctl]; decide
  obtain ⟨hstatus, hphase⟩ := h.status.running hne
  obtain ⟨hoff, -, hblock⟩ := h.block hne
  obtain ⟨-, hfits⟩ := hblock (by rw [hctl]; decide)
  unfold State.blockEnded
  split
  · exact ⟨h.direct, h.memories, .inr ⟨rfl, .inr (.inl ⟨rfl, rfl⟩)⟩, fun h => absurd rfl h, h.saved⟩
  · next hlast =>
    refine ⟨h.direct, h.memories, .inl ⟨hstatus, show Ctl.blockStart ≠ .idle by decide, ?_⟩,
      fun _ => ⟨Nat.lt_of_le_of_ne hfits hlast, fun h => absurd rfl h, fun hin => absurd rfl hin.2.1⟩, h.saved⟩
    show (if _ then _ else _) = _ ∨ (if _ then _ else _) = _
    split
    · exact .inl rfl
    · exact hphase

/-- The engine's step keeps the invariant. -/
theorem EngineStep.inv {s t : State} (h : s.Inv) (hstep : EngineStep s t) : t.Inv := by
  cases hstep with
  | idle => exact h
  | start hctl => exact blockStarted_inv h hctl
  | header sh hctl => exact headerRead_inv h sh hctl
  | entry hctl hframe hregs hsp hoff hphase hbs hs hblock =>
    have hne : s.ctl ≠ .idle := by rw [hctl]; decide
    obtain ⟨hstatus, -⟩ := h.status.running hne
    obtain ⟨hlt, hle, -⟩ := h.block hne
    have hsp' := hle (by rw [hctl]; decide)
    have hdst : t.dstLen = s.dstLen := by rw [State.dstLen, hregs, State.dstLen]
    have hpos : 1 ≤ s.nextSize := by
      unfold State.nextSize
      split <;> omega
    have hfits := nextSize_fits s
    refine ⟨hframe.direct.trans h.direct, hframe.memories h.memories,
      .inl ⟨by rw [hregs]; exact hstatus, hblock.1, .inr hphase⟩, fun _ => ⟨?_, fun _ => ?_, fun _ => ⟨?_, ?_⟩⟩, ?_⟩
    · rw [hoff, hdst]; exact hlt
    · rw [hsp]; exact Nat.le_trans hsp' hs
    · rw [hbs]; exact hpos
    · rw [hoff, hbs, hdst]; omega
    · rw [State.savedHdrReserved, hregs]; exact h.saved
  | work hctl hw =>
    obtain ⟨hstatus, hphase⟩ := h.status.running hctl.1
    obtain ⟨hlt, hle, hblock⟩ := h.block hctl.1
    have hdst : t.dstLen = s.dstLen := by rw [State.dstLen, hw.regs, State.dstLen]
    have ht := hw.ctl hctl
    refine ⟨hw.direct.trans h.direct, hw.memories h.memories, .inl ⟨by rw [hw.regs]; exact hstatus, ht.1, by rw [hw.phase]; exact hphase⟩,
      fun _ => ⟨?_, fun _ => ?_, fun _ => ?_⟩, ?_⟩
    · rw [hw.off, hdst]; exact hlt
    · rw [hw.sp]; exact Nat.le_trans (hle hctl.2.1) hw.localSource
    · rw [hw.bs, hw.off, hdst]; exact hblock hctl
    · rw [State.savedHdrReserved, hw.regs]; exact h.saved
  | blockEnd hctl => exact blockEnded_inv h hctl
  | fault c hctl hframe hregs =>
    exact takeFault_inv (hframe.direct.trans h.direct) (hframe.memories h.memories)
      (by rw [State.savedHdrReserved, hregs]; exact h.saved)

/-- While no job runs the invariant asks nothing of the sequencer's locals. -/
theorem State.Inv.ctl_idle {s : State} (h : s.Inv) (hidle : s.busy = false) : s.ctl = .idle := by
  refine Decidable.byContradiction fun hne => ?_
  rw [h.status.busy_iff.2 hne] at hidle
  cases hidle

theorem forgetStream_inv {s : State} (h : s.Inv) : s.forgetStream.Inv :=
  ⟨h.direct, h.memories, h.status, h.block, clearValid_reserved h.saved⟩

theorem softReset_inv {s : State} (h : s.Inv) : s.softReset.Inv := by
  have hmem := softReset_memories h.memories
  obtain ⟨sh, bh, a, b, p, lt, tmp, n, hreset⟩ := softReset_frame s
  rw [hreset] at hmem ⊢
  exact ⟨h.direct, hmem, .inr ⟨rfl, .inl ⟨rfl, rfl⟩⟩, fun h => absurd rfl h, clearValid_reserved h.saved⟩

theorem jobEnded_inv {s : State} (h : s.Inv) : s.jobStarted.finishJob.Inv := by
  have hmem : s.jobStarted.finishJob.memoriesCanonical := jobStarted_memories (s := s) h.memories
  obtain ⟨sh, bh, a, b, p, lt, tmp, n, hstart⟩ := jobStarted_frame s
  rw [hstart] at hmem ⊢
  exact ⟨h.direct, hmem, .inr ⟨rfl, .inr (.inl ⟨rfl, rfl⟩)⟩, fun h => absurd rfl h, h.saved⟩

theorem jobBegun_inv {s : State} (h : s.Inv) (hpos : s.dstLen ≠ 0) :
    ((s.jobStarted.setPhase .expectStreamHeader).setCtl .blockStart).Inv := by
  have hmem : ((s.jobStarted.setPhase .expectStreamHeader).setCtl .blockStart).memoriesCanonical :=
    jobStarted_memories (s := s) h.memories
  obtain ⟨sh, bh, a, b, p, lt, tmp, n, hstart⟩ := jobStarted_frame s
  rw [hstart] at hmem ⊢
  exact ⟨h.direct, hmem, .inl ⟨rfl, show Ctl.blockStart ≠ .idle by decide, .inl rfl⟩,
    fun _ => ⟨Nat.pos_of_ne_zero hpos, fun h => absurd rfl h, fun hin => absurd rfl hin.2.1⟩, h.saved⟩

theorem CommandStep.inv {s t : State} (h : s.Inv) (hstep : CommandStep s t) : t.Inv := by
  have hboth : ∀ {u}, (u = s ∨ u = s.forgetStream) → u.Inv := by
    rintro u (rfl | rfl)
    · exact h
    · exact forgetStream_inv h
  cases hstep with
  | ignored => exact h
  | forgotten => exact forgetStream_inv h
  | reset => exact softReset_inv h
  | tooLong hidle hu =>
    obtain ⟨hsrc, hdst, -, hsyms⟩ := (hboth hu).memories
    exact takeFault_inv (hboth hu).direct ⟨hsrc, hdst, hdst, hsyms⟩ (hboth hu).saved
  | empty hidle hu => exact jobEnded_inv (hboth hu)
  | begun hidle hu hpos => exact jobBegun_inv (hboth hu) hpos

theorem HostStep.inv {s t : State} (h : s.Inv) (hstep : HostStep s t) : t.Inv := by
  cases hstep with
  | command hcommand => exact hcommand.inv h
  | nothing => exact h
  | read => exact ⟨h.direct, h.memories, h.status, h.block, h.saved⟩
  | lengths x y hidle =>
    exact ⟨h.direct, h.memories, h.status, fun hne => absurd (h.ctl_idle hidle) hne, h.saved⟩
  | srcWrite a b =>
    obtain ⟨hsrc, hrest⟩ := h.memories
    exact ⟨h.direct, ⟨Memory.wf_write a b hsrc, hrest⟩, h.status, h.block, h.saved⟩
  | dstWrite a b =>
    obtain ⟨hsrc, hdst, hrest⟩ := h.memories
    exact ⟨h.direct, ⟨hsrc, Memory.wf_write a b hdst, hrest⟩, h.status, h.block, h.saved⟩

theorem setHost_inv {s : State} (h : s.Inv) (v : List HostEvent) : (s.setHost v).Inv :=
  ⟨h.direct, h.memories, h.status, h.block, h.saved⟩

theorem HostOutcome.step {s t : State} {o : Host.Outcome State Fault Refusal} (h : HostOutcome s o) (ho : o = .next t) :
    HostStep s t := by
  subst ho
  exact h

theorem EngineOutcome.step {s t : State} {o : Host.Outcome State Fault Refusal} (h : EngineOutcome s o) (ho : o = .next t) :
    EngineStep s t := by
  subst ho
  exact h

/-- Settles O2: no job runs. -/
theorem resetInvariant : Obligations.ResetInvariant :=
  ⟨rfl, State.reset_memoriesCanonical, .inr ⟨rfl, .inl ⟨rfl, rfl⟩⟩, fun h => absurd rfl h, by decide⟩

/-- Settles O3: the host's accesses and the engine's steps, case by case. -/
theorem stepKeepsInvariant : Obligations.StepKeepsInvariant := by
  intro s t h hstep
  obtain ⟨-, op, rest, heq⟩ | ⟨host, heq, -⟩ := step_cases s
  · exact ((hostAccess_outcome op _).step (heq ▸ hstep)).inv (setHost_inv h rest)
  · exact ((engineStep_outcome (s := s.setHost host) h.direct).step (heq ▸ hstep)).inv (setHost_inv h host)

/-- Settles O12: neither a host access nor a step of the engine is refused for these reasons. -/
theorem elementsAreThere : Obligations.ElementsAreThere := by
  intro s hdirect r hstep
  obtain ⟨-, op, rest, heq⟩ | ⟨host, heq, -⟩ := step_cases s
  · have h := hostAccess_outcome op (s.setHost rest)
    rw [← heq, hstep] at h
    exact h
  · have h := engineStep_outcome (s := s.setHost host) hdirect
    rw [← heq, hstep] at h
    exact h

/-! ### The positions (R26, R313) -/

theorem softReset_busy (s : State) : s.softReset.busy = false := by
  obtain ⟨sh, bh, a, b, p, lt, tmp, n, hreset⟩ := softReset_frame s
  rw [hreset]
  show busyBit 0#32 = false
  decide

theorem takeFault_busy (c : Cause) (s : State) : (takeFault c s).busy = false := by
  obtain ⟨d, x, y, hfault⟩ := takeFault_frame c s
  rw [hfault]
  exact busyBit_faultStatus c

/-- While a job runs an access of the host that does not end it leaves the positions. -/
theorem HostStep.positions {s t : State} (h : HostStep s t) (hs : s.busy = true) (ht : t.busy = true) :
    t.sp = s.sp ∧ t.off = s.off := by
  have hidle : ¬ s.busy = false := by simp [hs]
  cases h with
  | command hcommand => cases hcommand with
    | ignored => exact ⟨rfl, rfl⟩
    | reset =>
      rw [softReset_busy] at ht
      cases ht
    | forgotten h | tooLong h | empty h | begun h => exact absurd h hidle
  | nothing | read => exact ⟨rfl, rfl⟩
  | lengths _ _ h | srcWrite _ _ h | dstWrite _ _ h => exact absurd h hidle

/-- A step of the engine that leaves the job running does not go back. -/
theorem EngineStep.positions {s t : State} (h : s.Inv) (hstep : EngineStep s t) (ht : t.busy = true) :
    s.sp ≤ t.sp ∧ s.off ≤ t.off := by
  cases hstep with
  | idle | start | header => exact ⟨Nat.le_refl _, Nat.le_refl _⟩
  | entry hctl hframe hregs hsp hoff => exact ⟨Nat.le_of_eq hsp.symm, Nat.le_of_eq hoff.symm⟩
  | work hctl hw => exact ⟨Nat.le_of_eq hw.sp.symm, Nat.le_of_eq hw.off.symm⟩
  | blockEnd hctl =>
    have hsp := (h.block (by rw [hctl]; decide)).2.1 (by rw [hctl]; decide)
    unfold State.blockEnded
    split
    · exact ⟨hsp, Nat.le_add_right _ _⟩
    · exact ⟨hsp, Nat.le_add_right _ _⟩
  | fault c =>
    rw [takeFault_busy] at ht
    cases ht

/-- Settles O5: only the end of a block moves the positions. -/
theorem positionsGrow : Obligations.PositionsGrow := by
  intro s t h hstep hs ht
  have hinv := stepKeepsInvariant s t h hstep
  have hlt := (hinv.block (hinv.status.busy_iff.1 ht)).1
  obtain ⟨-, op, rest, heq⟩ | ⟨host, heq, -⟩ := step_cases s
  · obtain ⟨hsp, hoff⟩ := ((hostAccess_outcome op (s.setHost rest)).step (heq ▸ hstep)).positions hs ht
    exact ⟨Nat.le_of_eq hsp.symm, Nat.le_of_eq hoff.symm, hlt⟩
  · obtain ⟨hsp, hoff⟩ :=
      ((engineStep_outcome (s := s.setHost host) h.direct).step (heq ▸ hstep)).positions (setHost_inv h host) ht
    exact ⟨hsp, hoff, hlt⟩

/-! ### The host's side (R61, R62, R378) -/

/-- What a step of the engine leaves. -/
theorem EngineStep.leavesHost {s t : State} (h : EngineStep s t) :
    t.src = s.src ∧ t.regs.srcLen = s.regs.srcLen ∧ t.regs.dstLen = s.regs.dstLen ∧ t.host = s.host ∧
    t.hostData = s.hostData ∧ t.dst0 = s.dst0 ∧ t.direct = s.direct ∧
    (t.ctl ≠ .idle → ∀ a, s.dstLen ≤ a → Memory.read t.dst a = Memory.read s.dst a) := by
  have hframed : ∀ {t}, Framed s t → t.src = s.src ∧ t.regs.srcLen = s.regs.srcLen ∧ t.regs.dstLen = s.regs.dstLen ∧
      t.host = s.host ∧ t.hostData = s.hostData ∧ t.dst0 = s.dst0 ∧ t.direct = s.direct ∧
      (t.ctl ≠ .idle → ∀ a, s.dstLen ≤ a → Memory.read t.dst a = Memory.read s.dst a) := fun hf =>
    ⟨hf.src, hf.srcLen, hf.dstLen, hf.host, hf.hostData, hf.dst0, hf.direct, fun _ => hf.dst⟩
  cases h with
  | idle | start | header => exact ⟨rfl, rfl, rfl, rfl, rfl, rfl, rfl, fun _ _ _ => rfl⟩
  | entry _ hf => exact hframed hf
  | work _ hw => exact hframed hw.toFramed
  | blockEnd =>
    unfold State.blockEnded
    split
    · exact ⟨rfl, rfl, rfl, rfl, rfl, rfl, rfl, fun _ _ _ => rfl⟩
    · exact ⟨rfl, rfl, rfl, rfl, rfl, rfl, rfl, fun _ _ _ => rfl⟩
  | fault c _ hf =>
    obtain ⟨d, x, y, hfault⟩ := takeFault_frame c _
    rw [hfault]
    exact ⟨hf.src, hf.srcLen, hf.dstLen, hf.host, hf.hostData, hf.dst0, hf.direct, fun h => absurd rfl h⟩

/-- Settles O6: the frame of an engine step. -/
theorem engineLeavesHostAlone : Obligations.EngineLeavesHostAlone := by
  intro s t hdirect hboundary hstep
  obtain ⟨hb, -⟩ | ⟨host, heq, hsame⟩ := step_cases s
  · rw [hboundary] at hb
    cases hb
  · rw [heq, hsame hboundary] at hstep
    obtain ⟨hsrc, hsrcLen, hdstLen, hhost, hdata, hdst0, hdir, hdst⟩ :=
      ((engineStep_outcome (s := s) hdirect).step hstep).leavesHost
    exact ⟨hsrc, hsrcLen, hdstLen, hhost, hdata, hdst0, hdir.trans hdirect, hdst⟩

/-! ### The memories (log entry 3) -/

/-- Work that settles in a next state keeps the canonical form. -/
theorem Works.settle_memories {m : Eng Unit} (h : Works m) {s t : State} (hs : s.memoriesCanonical)
    (hstep : settle m s = .next t) : t.memoriesCanonical := by
  obtain hm | ⟨c, u, hm, rfl⟩ := settle_next hstep
  · exact (h.ok hm).toFramed.memories hs
  · exact takeFault_memories ((h.raised hm).toFramed.memories hs)

theorem CommandStep.memories {s t : State} (hs : s.memoriesCanonical) (h : CommandStep s t) : t.memoriesCanonical := by
  have hboth : ∀ {u}, (u = s ∨ u = s.forgetStream) → u.memoriesCanonical := by
    rintro u (rfl | rfl)
    · exact hs
    · exact hs
  cases h with
  | ignored | forgotten => exact hs
  | reset => exact softReset_memories hs
  | tooLong _ hu =>
    obtain ⟨hsrc, hdst, -, hsyms⟩ := hboth hu
    exact takeFault_memories ⟨hsrc, hdst, hdst, hsyms⟩
  | @empty u _ hu | @begun u _ hu => exact jobStarted_memories (s := u) (hboth hu)

theorem HostStep.memories {s t : State} (hs : s.memoriesCanonical) (h : HostStep s t) : t.memoriesCanonical := by
  cases h with
  | command hcommand => exact hcommand.memories hs
  | nothing | read | lengths => exact hs
  | srcWrite a b => exact ⟨Memory.wf_write a b hs.1, hs.2⟩
  | dstWrite a b => exact ⟨hs.1, Memory.wf_write a b hs.2.1, hs.2.2⟩

theorem EngineStep.memories {s t : State} (hs : s.memoriesCanonical) (h : EngineStep s t) : t.memoriesCanonical := by
  cases h with
  | idle | start | header => exact hs
  | entry _ hf => exact hf.memories hs
  | work _ hw => exact hw.toFramed.memories hs
  | blockEnd =>
    unfold State.blockEnded
    split
    · exact hs
    · exact hs
  | fault c _ hf => exact takeFault_memories (hf.memories hs)

/-- Every instruction keeps the canonical form. -/
theorem exec_memories {i : Instr} {s t : State} (hs : s.memoriesCanonical) (h : exec i s = .next t) :
    t.memoriesCanonical := by
  by_cases hrow : i.isCommand = false
  · obtain ⟨m, hworks, hexec | ⟨-, hexec⟩⟩ := exec_executes hrow s
    · exact hworks.settle_memories hs (hexec ▸ h)
    · rw [hexec] at h
      cases h
  · cases i with
    | ctrlStart x f =>
      obtain ⟨u, hexec, hstep⟩ := exec_command (i := .ctrlStart x f) rfl s
      rw [hexec] at h
      cases h
      exact hstep.memories hs
    | ctrlSoftReset x f =>
      cases h
      exact softReset_memories hs
    | ctrlForgetStream x =>
      obtain ⟨u, hexec, hstep⟩ := exec_command (i := .ctrlForgetStream x) rfl s
      rw [hexec] at h
      cases h
      exact hstep.memories hs
    | streamHeaderLzna | streamHeaderKraken | streamHeaderMermaid | streamHeaderBitknit | streamHeaderLeviathan =>
      cases h
      exact hs
    | _ => exact absurd rfl hrow

/-- Settles O4: an operation issued on its own is an instruction, and every other step is the host's or the engine's. -/
theorem stepKeepsMemories : Obligations.StepKeepsMemories := by
  intro s t hs hstep
  obtain ⟨-, op, rest, heq⟩ | ⟨host, heq, -⟩ := step_cases s
  · exact ((hostAccess_outcome op _).step (heq ▸ hstep)).memories (s := s.setHost rest) hs
  · rw [heq] at hstep
    cases hdirect : s.direct with
    | nil => exact ((engineStep_outcome (s := s.setHost host) hdirect).step hstep).memories (s := s.setHost host) hs
    | cons i rest =>
      have hexec : engineStep (s.setHost host) = exec i ((s.setHost host).setDirect rest) := by
        simp only [engineStep, State.setHost_direct, hdirect]
      exact exec_memories (s := (s.setHost host).setDirect rest) hs (hexec ▸ hstep)

end Sys2Proof.Machine
end

section
/-! The host's commands and accesses (R31 to R36, R300, R370, R374), the fault action (R341), and the block step's start and end
(R301 to R303, R313, R315). -/

namespace Sys2Proof.Machine

/-- Settles O1: the reset state evaluated. -/
theorem resetState : Obligations.ResetState := by
  refine ⟨rfl, rfl, rfl, rfl, rfl, rfl, rfl, rfl, by decide, rfl, rfl⟩

/-- Settles O18: the outcome is settled by the cause alone. -/
theorem faultAction : Obligations.FaultAction :=
  fun _ _ u c hm hc => ⟨takeFault c u, settle_raise hm, takeFault_spec c u hc⟩

/-! ### What stands there (R380) -/

theorem step_inside {s : State} (h : s.boundary = false) : step s = engineStep s := by
  simp only [step, machineStep, h, Bool.false_eq_true, if_false]

theorem step_quiet {s : State} (h : s.boundary = true) (hhost : s.host = []) : step s = engineStep s := by
  simp only [step, machineStep, h, if_true, hhost]

theorem step_waiting {s : State} {n : Nat} {op : HostOp} {rest : List HostEvent} (h : s.boundary = true)
    (hhost : s.host = ⟨n + 1, op⟩ :: rest) : step s = engineStep { s with host := ⟨n, op⟩ :: rest } := by
  simp only [step, machineStep, h, if_true, hhost]
  rfl

theorem step_access {s : State} {op : HostOp} {rest : List HostEvent} (h : s.boundary = true)
    (hhost : s.host = ⟨0, op⟩ :: rest) : step s = hostAccess op { s with host := rest } := by
  simp only [step, machineStep, h, if_true, hhost]
  rfl

/-- An element is expected inside a block step only. -/
theorem boundary_of_expects {s : State} {ctx : Ctx} (h : s.expects = some ctx) : s.boundary = false := by
  refine Bool.eq_false_iff.2 fun hb => ?_
  rw [State.boundary, Bool.or_eq_true, beq_iff_eq, beq_iff_eq] at hb
  rw [State.expects_eq_none (hb.imp_right .inl)] at h
  cases h

theorem step_element {s : State} {ctx : Ctx} {i : Instr} (hdirect : s.direct = []) (hexpects : s.expects = some ctx)
    (hdecode : decode ctx (s.supply ctx) = .ok i) : step s = exec i s.taken := by
  rw [step_inside (boundary_of_expects hexpects)]
  simp only [engineStep, hdirect, hexpects, params_grammar, hdecode]

theorem step_unreadable {s : State} {ctx : Ctx} {e : DecodeError} (hdirect : s.direct = []) (hexpects : s.expects = some ctx)
    (hdecode : decode ctx (s.supply ctx) = .error e) : step s = settle (unreadable e) s := by
  rw [step_inside (boundary_of_expects hexpects)]
  simp only [engineStep, hdirect, hexpects, params_grammar, hdecode]

/-- Settles O11: the five ways the step is dispatched. -/
theorem stepRunsInstruction : Obligations.StepRunsInstruction := by
  refine ⟨fun s ctx i hdirect hexpects hdecode => ?element, fun s v rest hboundary hhost => ?ctrl,
    fun s i rest hdirect hquiet => ?direct, fun s ctx e hdirect hexpects hdecode => ?unreadable,
    fun s n op rest hboundary hhost => step_waiting hboundary hhost⟩
  case element =>
    exact ⟨step_element hdirect hexpects hdecode, fun hctl => if_neg hctl, fun hctl => if_pos hctl⟩
  case ctrl =>
    have hstep : step s = writeCtrl v { s with host := rest } := step_access hboundary hhost
    refine ⟨fun i hdecode => ?_, fun e hdecode => ?_⟩
    · simp only [hstep, writeCtrl, params_grammar, hdecode]
    · simp only [hstep, writeCtrl, params_grammar, hdecode]
  case direct =>
    have hengine : engineStep s = exec i { s with direct := rest } := by
      simp only [engineStep, hdirect]
      rfl
    cases hboundary : s.boundary with
    | false => rw [step_inside hboundary, hengine]
    | true => rw [step_quiet hboundary (hquiet hboundary), hengine]
  case unreadable => exact step_unreadable hdirect hexpects hdecode

/-! ### The register window (R31) -/

theorem register_eq (s : State) (k : Nat) :
    s.register k = if k = 1 then s.regs.status else if k = 2 then s.regs.srcLen else if k = 3 then s.regs.dstLen
      else if k = 4 then s.regs.srcUsed else if k = 5 then s.regs.dstUsed else if k = 6 then s.regs.savedHdr else 0#32 := by
  unfold State.register
  split
  · rfl
  · rfl
  · rfl
  · rfl
  · rfl
  · rfl
  · next h1 h2 h3 h4 h5 h6 => rw [if_neg h1, if_neg h2, if_neg h3, if_neg h4, if_neg h5, if_neg h6]; rfl

theorem readableBusy_iff (k : Nat) : readableBusy k = true ↔ k = 1 ∨ 6 ≤ k := by
  simp [readableBusy]

/-- R31, R374: a read that has a defined result gives the register. -/
theorem readRegister_defined {s : State} {k : Nat} (h : s.busy = false ∨ k = 1 ∨ 6 ≤ k) :
    s.readRegister k = { s with hostData := s.register k } := by
  have hnot : ¬ (s.busy && !readableBusy k) = true := by
    rw [Bool.and_eq_true, not_and, Bool.not_eq_true', Bool.not_eq_false, readableBusy_iff]
    intro hbusy
    obtain hidle | hk := h
    · rw [hbusy] at hidle
      cases hidle
    · exact hk
  rw [State.readRegister, if_neg hnot]
  rfl

theorem readRegister_free {s : State} {k : Nat} (hbusy : s.busy = true) (hne : k ≠ 1) (hlt : k < 6) :
    s.readRegister k = { s with hostData := Config.busyRead s.fresh, fresh := s.fresh + 1 } := by
  have hfree : (s.busy && !readableBusy k) = true := by
    have hnot : ¬ readableBusy k = true := by
      rw [readableBusy_iff]
      omega
    simp [hbusy, hnot]
  rw [State.readRegister, if_pos hfree]
  rfl

theorem writeRegister_eq (s : State) (k : Nat) (v : Word) :
    s.writeRegister (k + 1) v =
      if s.busy = false ∧ k = 1 then { s with regs := { s.regs with srcLen := v } }
      else if s.busy = false ∧ k = 2 then { s with regs := { s.regs with dstLen := v } }
      else s := by
  unfold State.writeRegister
  cases hbusy : s.busy with
  | true => simp
  | false =>
    simp only [Bool.false_eq_true, if_false, true_and]
    match k with
    | 0 => rfl
    | 1 => rfl
    | 2 => rfl
    | k + 3 => rfl

/-- Settles O13: a read and a write that no longer wait. -/
theorem registerWindow : Obligations.RegisterWindow := by
  refine ⟨fun s k rest hboundary hhost => ⟨fun hdefined => ?read, fun hbusy hne hlt => ?free⟩,
    fun s k v rest hboundary hhost => ?write⟩
  case read =>
    have hstep : step s = .next (State.readRegister { s with host := rest } k) := step_access hboundary hhost
    rw [hstep, readRegister_defined (s := { s with host := rest }) hdefined, register_eq]
  case free =>
    have hstep : step s = .next (State.readRegister { s with host := rest } k) := step_access hboundary hhost
    exact ⟨_, by rw [hstep, readRegister_free (s := { s with host := rest }) hbusy hne hlt]⟩
  case write =>
    have hstep : step s = .next (State.writeRegister { s with host := rest } (k + 1) v) := step_access hboundary hhost
    rw [hstep, writeRegister_eq]
    rfl

/-! ### The two spaces (R61, R62) -/

theorem stored_write (m : Memory) (a : Nat) (b : Byte) : Memory.Stored m a 1 (fun _ => b) (Memory.write m a b) := by
  intro i
  rw [Memory.read_write]
  by_cases h : a = i
  · rw [if_pos h, if_pos (by omega)]
  · rw [if_neg h, if_neg (by omega)]

theorem whileIdle_idle {s : State} (h : s.busy = false) (o : Host.Outcome State Fault Refusal) : whileIdle s o = o := by
  simp only [whileIdle, h, Bool.false_eq_true, if_false]

theorem whileIdle_busy {s : State} (h : s.busy = true) (o : Host.Outcome State Fault Refusal) :
    whileIdle s o = .refused .hostDuty := by
  simp only [whileIdle, h, if_true]

/-- Settles O14: each access, allowed and refused. -/
theorem hostSpaces : Obligations.HostSpaces := by
  intro s a b rest hboundary ha
  refine ⟨fun hhost hidle => ?srcWrite, fun hhost hidle => ?dstWrite, fun hhost hidle => ?dstRead, fun hhost hbusy => ?busy⟩
  case srcWrite =>
    refine ⟨{ s with host := rest, src := Memory.write s.src a b }, ?_, rfl, stored_write s.src a b⟩
    rw [step_access hboundary hhost]
    exact (whileIdle_idle (s := { s with host := rest }) hidle _).trans (if_pos ha)
  case dstWrite =>
    refine ⟨{ s with host := rest, dst := Memory.write s.dst a b }, ?_, rfl, stored_write s.dst a b⟩
    rw [step_access hboundary hhost]
    exact (whileIdle_idle (s := { s with host := rest }) hidle _).trans (if_pos ha)
  case dstRead =>
    refine ⟨dstValue s.dst a, ?_, fun w hw => by rw [dstValue, hw]; rfl⟩
    rw [step_access hboundary hhost]
    exact (whileIdle_idle (s := { s with host := rest }) hidle _).trans (if_pos ha)
  case busy =>
    obtain hhost | hhost | hhost := hhost <;> rw [step_access hboundary hhost] <;>
      exact whileIdle_busy (s := { s with host := rest }) hbusy _

/-! ### The host's commands (R32) -/

/-- R36: clearing VALID leaves the other bits. -/
theorem clearValid_bit (w : Word) {j : Nat} (hj : j < 32) :
    (clearValid w).getLsbD j = (w.getLsbD j && decide (j ≠ 31)) := by
  have hmask : ∀ i : Fin 32, (0x7FFFFFFF#32).getLsbD i = decide (i.val ≠ 31) := by decide
  rw [clearValid, BitVec.getLsbD_and, hmask ⟨j, hj⟩]

/-- Settles O16: while a job runs and while none does. -/
theorem forgetStream : Obligations.ForgetStream := by
  refine ⟨fun s x f hbusy => ⟨?_, ?_⟩, fun s x hidle => ⟨clearValid s.regs.savedHdr, ?_, fun j hj => clearValid_bit _ hj⟩⟩
  · show execCtrlStart f s = _
    rw [execCtrlStart, if_pos hbusy]
  · show execCtrlForgetStream s = _
    rw [execCtrlForgetStream, if_pos hbusy]
  · show execCtrlForgetStream s = _
    rw [execCtrlForgetStream, if_neg (by rw [hidle]; decide)]
    rfl

/-- Settles O17: the frame of the reset, then the destination it leaves. -/
theorem softReset : Obligations.SoftReset := by
  intro s x b
  obtain ⟨-, hsame, hread⟩ := State.freeDst_spec (Config.keepAfterReset s.fresh) s
  refine ⟨s.softReset, rfl, ?_⟩
  obtain ⟨sh, bh, a, b, p, lt, tmp, n, hreset⟩ := softReset_frame s
  rw [hreset]
  refine ⟨rfl, rfl, rfl, rfl, rfl, rfl, rfl, rfl, rfl, fun hidle => by rw [hsame hidle], fun i => ?_⟩
  obtain h | ⟨-, h⟩ := hread i
  · exact .inl h
  · exact .inr h

/-- The state a START works on: FORGET_STREAM comes before it where its bit is set (R32). -/
def State.startFrom (s : State) (f : Bool) : State :=
  { s with regs := { s.regs with savedHdr := if f then s.regs.savedHdr &&& 0x7FFFFFFF#32 else s.regs.savedHdr } }

theorem exec_start_idle {s : State} (hidle : s.busy = false) (x : BitVec 29) (f : Bool) :
    exec (.ctrlStart x f) s = settle (startJob Config.maxDstLen) (s.startFrom f) := by
  show execCtrlStart f s = _
  rw [execCtrlStart, if_neg (by rw [hidle]; decide)]
  cases f <;> rfl

/-- R300: E47 takes effect with no job running, so that the destination stays. -/
theorem takeFault_e47 {s : State} (hidle : s.busy = false) :
    takeFault .e47 s =
      { s with regs := { s.regs with status := faultStatus 4 47, srcUsed := 0#32, dstUsed := 0#32 }, phase := .faulted,
               ctl := .idle } := by
  rw [takeFault, (State.freeDst_spec _ s).2.1 hidle]
  rfl

/-- Settles O15: the limit, then the job that starts. -/
theorem start : Obligations.Start := by
  refine ⟨Nat.min_le_right _ _, ?_⟩
  intro s x f hidle saved dstLen
  refine ⟨fun hlong => ?tooLong, fun hfits => ?started⟩
  case tooLong =>
    have hidle' : ((s.startFrom f).setDst0 (s.startFrom f).dst).busy = false := hidle
    rw [exec_start_idle hidle, settle_raise (startJob_tooLong (s := s.startFrom f) hlong), takeFault_e47 hidle']
    rfl
  case started =>
    obtain ⟨sh, bh, a, b, p, lt, tmp, n, hjob⟩ := jobStarted_frame (s.startFrom f)
    rw [exec_start_idle hidle]
    by_cases hzero : dstLen = 0
    · refine ⟨_, settle_ok (startJob_empty (s := s.startFrom f) hfits hzero), ?_⟩
      have hlen : s.regs.dstLen = 0#32 := BitVec.eq_of_toNat_eq hzero
      rw [hjob]
      simp only [if_pos hzero]
      exact ⟨rfl, congrArg (fun used : Word => ({ s with
        regs := { s.regs with status := 2#32, srcUsed := 0#32, dstUsed := used, savedHdr := saved },
        phase := .finished, ctl := .idle, dst0 := s.dst, sp := 0, off := 0, sh := sh, bh := bh, a := a, b := b,
        ct := { syms := [], codePrefix := p }, lt := lt, tmp := tmp, fresh := n } : State)) hlen⟩
    · refine ⟨_, settle_ok (startJob_begun (s := s.startFrom f) hfits hzero), ?_⟩
      rw [hjob]
      simp only [if_neg hzero]
      exact ⟨rfl, rfl⟩

/-! ### Stream headers (R161) -/

theorem savedHdrOf_eq (fam : Family) (r u c : Bool) :
    savedHdrOf { family := fam, restart := r, uncompressed := u, useChecksums := c } =
      BitVec.ofNat 32 (fam.code.toNat + 128 * c.toNat + 256 * u.toNat + 512 * r.toNat + 2147483648) := by
  revert r u c
  cases fam <;> decide

/-- Settles O20: the five families run one computation. -/
theorem streamHeaders : Obligations.StreamHeaders := by
  intro s r u c read
  have hread : ∀ fam : Family, Host.Outcome.next (s.headerRead { family := fam, restart := r, uncompressed := u, useChecksums := c }) =
      read fam fam.code.toNat := fun fam => by
    rw [State.headerRead, savedHdrOf_eq]
  exact ⟨hread .lzna, hread .kraken, hread .mermaid, hread .bitknit, hread .leviathan⟩

/-! ### The block step (R301) -/

theorem step_blockEnd {s : State} (hdirect : s.direct = []) (hctl : s.ctl = .blockEnd) : step s = .next s.blockEnded := by
  rw [step_eq_sequence hdirect hctl rfl (State.expects_eq_none (by simp [hctl]))]
  exact settle_ok (blockEnd_run s)

/-- Settles O54: at DST_LEN and before it. -/
theorem BlockStep.blockEnd : Obligations.BlockEnd := fun _ hdirect hctl => step_blockEnd hdirect hctl

theorem engineStep_blockStart {s : State} (hdirect : s.direct = []) (hctl : s.ctl = .blockStart) :
    engineStep s = .next s.blockStarted := by
  rw [engineStep_eq_sequence hdirect (State.expects_eq_none (by simp [hctl])), hctl]
  exact settle_ok (blockStart_run s)

theorem engineStep_idle {s : State} (hdirect : s.direct = []) (hctl : s.ctl = .idle) : engineStep s = .next s := by
  rw [engineStep_eq_sequence hdirect (State.expects_eq_none (by simp [hctl])), hctl]
  rfl

theorem step_blockEntry {s : State} (hdirect : s.direct = []) (hctl : s.ctl = .blockEntry) :
    step s = settle (blockEntry params) s :=
  step_eq_sequence hdirect hctl rfl (State.expects_eq_none (by simp [hctl]))

/-- Settles O51: the start of a block step, the waiting access, and the choice of the block. -/
theorem BlockStep.blockStart : Obligations.BlockStart := by
  intro s hdirect
  have hboundary : s.ctl = .blockStart ∨ s.ctl = .idle → s.boundary = true := by
    rintro (hctl | hctl) <;> rw [State.boundary, hctl] <;> rfl
  refine ⟨fun hctl hhost => ?start, fun n op rest hhost => ⟨fun hctl => ?waitingStart, fun hctl => ?waitingIdle⟩, fun hctl => ?entry⟩
  case start => rw [step_quiet (hboundary (.inl hctl)) hhost, engineStep_blockStart hdirect hctl, State.blockStarted]
  case waitingStart =>
    rw [step_waiting (hboundary (.inl hctl)) hhost]
    exact engineStep_blockStart (s := { s with host := ⟨n, op⟩ :: rest }) hdirect hctl
  case waitingIdle =>
    rw [step_waiting (hboundary (.inr hctl)) hhost]
    exact engineStep_idle (s := { s with host := ⟨n, op⟩ :: rest }) hdirect hctl
  case entry =>
    rw [step_blockEntry hdirect hctl]
    refine ⟨fun hmode => ?_, fun hmode hsrc => ?_, fun hmode hsrc => ?_⟩
    · exact settle_ok (blockEntry_compressed hmode)
    · exact ⟨_, settle_ok (blockEntry_copied hmode hsrc), rfl, Memory.stored_srcValues _ _ _ _ _⟩
    · exact ⟨_, settle_raise (blockEntry_truncated hmode hsrc), takeFault_spec .e10 _ (by decide)⟩

end Sys2Proof.Machine
end

section
/-! Block headers (R164 to R174): what each row writes, and the headers cut short. -/

namespace Sys2Proof

/-! ### Source bytes as bits -/

theorem bitsOfBytes_append (a b : List Byte) : bitsOfBytes (a ++ b) = bitsOfBytes a ++ bitsOfBytes b := by
  induction a with
  | nil => rfl
  | cons x a ih => rw [List.cons_append, bitsOfBytes, bitsOfBytes, ih, List.append_assoc]

theorem bitsOfBytes_length (a : List Byte) : (bitsOfBytes a).length = 8 * a.length := by
  induction a with
  | nil => rfl
  | cons x a ih => rw [bitsOfBytes, List.length_append, bitsOf_length, ih, List.length_cons]; omega

/-- A field is its upper and its lower bits. -/
theorem bitsOf_eq_append (m n : Nat) (v : BitVec (m + n)) :
    bitsOf v = bitsOf (v.extractLsb' n m) ++ bitsOf (v.extractLsb' 0 n) :=
  (congrArg bitsOf (bitVec_eq_append m n v)).trans (bitsOf_append _ _)

theorem bitsOf_getElem? {w : Nat} (v : BitVec w) (j : Nat) :
    (bitsOf v)[j]? = if j < w then some (v.getLsbD (w - 1 - j)) else none := by
  rw [bitsOf, bitsOfNat_getElem?, BitVec.testBit_toNat]

/-- A field is its top bit and the bits below. -/
theorem bitsOf_extractLsb'_succ {w : Nat} (v : BitVec w) (i n : Nat) :
    bitsOf (v.extractLsb' i (n + 1)) = v.getLsbD (i + n) :: bitsOf (v.extractLsb' i n) := by
  apply List.ext_getElem?
  intro j
  rw [bitsOf_getElem?, BitVec.getLsbD_extractLsb']
  cases j with
  | zero => simp
  | succ j =>
    rw [List.getElem?_cons_succ, bitsOf_getElem?, BitVec.getLsbD_extractLsb']
    by_cases hj : j < n
    · rw [if_pos (by omega), if_pos hj, show n + 1 - 1 - (j + 1) = n - 1 - j by omega, decide_eq_true (by omega),
        decide_eq_true (by omega)]
    · rw [if_neg (by omega), if_neg hj]

namespace Machine

theorem srcValues_add (m : Memory) (i n k : Nat) : srcValues m i (n + k) = srcValues m i n ++ srcValues m (i + n) k := by
  induction n generalizing i with
  | zero => simp [srcValues]
  | succ n ih => rw [Nat.succ_add, srcValues, ih, srcValues, List.cons_append, Nat.add_right_comm, Nat.add_assoc i n 1]

theorem sourceBits_length (s : State) (p e k : Nat) : (s.sourceBits p e k).length = 8 * min k (min e s.srcLen - p) := by
  rw [State.sourceBits, bitsOfBytes_length, srcValues_length]

/-- The first bytes of what an element is read from. -/
theorem sourceBits_split {s : State} {p e k n : Nat} (h : n ≤ min k (min e s.srcLen - p)) :
    ∃ rest, s.sourceBits p e k = bitsOfBytes (srcValues s.src p n) ++ rest ∧
      rest.length = 8 * (min k (min e s.srcLen - p) - n) := by
  refine ⟨bitsOfBytes (srcValues s.src (p + n) (min k (min e s.srcLen - p) - n)), ?_, ?_⟩
  · rw [← bitsOfBytes_append, ← srcValues_add, Nat.add_sub_cancel' h, State.sourceBits]
  · rw [bitsOfBytes_length, srcValues_length]

theorem bitsOfBytes_two (m : Memory) (p : Nat) :
    bitsOfBytes (srcValues m p 2) = bitsOf (srcValue m p ++ srcValue m (p + 1)) := by
  rw [bitsOf_append]
  simp [srcValues, bitsOfBytes]

theorem bitsOfBytes_three (m : Memory) (p : Nat) :
    bitsOfBytes (srcValues m p 3) = bitsOf (srcValue m p ++ srcValue m (p + 1) ++ srcValue m (p + 2)) := by
  rw [bitsOf_append, bitsOf_append]
  simp [srcValues, bitsOfBytes]

/-! ### The rows (R165, R167, R170, R172) -/

/-- R164: a block header has been read. -/
def State.blockHeaderRead (s : State) (bh : BlockHeader) (n : Nat) : State :=
  { s with bh := bh, loc := { s.loc with s := s.loc.s + n }, ctl := .blockBody }

theorem settle_acceptBlockHeader (bh : BlockHeader) (n : Nat) (s : State) :
    settle (acceptBlockHeader bh n) s = .next (s.blockHeaderRead bh n) := rfl

/-- The BH of a normal header (R165, R170). -/
theorem codedHeader_eq (size : Nat) (flag2 flag1 : Bool) (ck : BitVec 24) :
    codedHeader size flag2 flag1 (ck.setWidth 32) =
      { compressedSize := BitVec.ofNat 32 size, checksum := BitVec.ofNat 32 ck.toNat, flag1 := flag1, flag2 := flag2,
        wholeMatchDistance := 0, kind := .coded } := by
  rw [codedHeader, BitVec.ofNat_toNat]

theorem fillHeader_eq (bh : BlockHeader) (distance : Word) (k : Byte) :
    fillHeader bh distance (k.setWidth 32) =
      { bh with compressedSize := 0, checksum := BitVec.ofNat 32 k.toNat, wholeMatchDistance := distance, kind := .fill } := by
  rw [fillHeader, BitVec.ofNat_toNat]

/-! ### A header cut short (R165, R173) -/

/-- R165: the first word of a Kraken-family header. -/
theorem kraken_firstWord (v : BitVec 24) :
    bitsOf v = bitsOf (v.extractLsb' 20 4) ++ v.getLsbD 19 :: v.getLsbD 18 :: bitsOf (v.extractLsb' 0 18) := by
  rw [bitsOf_eq_append 4 20 v, bitsOf_extractLsb'_succ v 0 19, bitsOf_extractLsb'_succ v 0 18]

/-- R170: the first word of an LZNA-family header. -/
theorem lzna_firstWord (v : BitVec 16) : bitsOf v = v.getLsbD 15 :: v.getLsbD 14 :: bitsOf (v.extractLsb' 0 14) := by
  have hv : v = v.extractLsb' 0 16 := by simp
  refine (congrArg bitsOf hv).trans ?_
  rw [bitsOf_extractLsb'_succ v 0 15, bitsOf_extractLsb'_succ v 0 14]

theorem beginKraken_normal {s : State} {x : BitVec 4} {flag2 flag1 : Bool} {size : BitVec 18}
    (h : decodeKrakenBh false (s.sourceBits s.loc.s s.srcLen 6) = .ok (.krakenBhNormal x flag2 flag1 size)) :
    beginKraken params s = .ok () (s.setBh (codedHeader (size.toNat + 1) flag2 flag1 0)) := by
  simp only [beginKraken, Eng.bind_run, getState_run, params_grammar, grammar_headerBytes, headerSize_krakenBh, decode_krakenBh,
    h, update_run, params_krakenSize]

theorem beginKraken_other {s : State} {i : Instr}
    (h : decodeKrakenBh false (s.sourceBits s.loc.s s.srcLen 6) = .ok i) (hi : ∀ x f g z, i ≠ .krakenBhNormal x f g z) :
    beginKraken params s = .ok () s := by
  simp only [beginKraken, Eng.bind_run, getState_run, params_grammar, grammar_headerBytes, headerSize_krakenBh, decode_krakenBh, h]
  cases i with
  | krakenBhNormal x f g z => exact absurd rfl (hi x f g z)
  | _ => rfl

theorem beginLzna_normal {s : State} {flag2 flag1 : Bool} {size : BitVec 14}
    (h : decodeLznaBh false (s.sourceBits s.loc.s s.srcLen 5) = .ok (.lznaBhNormal flag2 flag1 size)) :
    beginLzna params s = .ok () (s.setBh (codedHeader (size.toNat + 1) flag2 flag1 0)) := by
  simp only [beginLzna, Eng.bind_run, getState_run, params_grammar, grammar_headerBytes, headerSize_lznaBh, decode_lznaBh,
    h, update_run, params_lznaSize]

theorem beginLzna_error {s : State} {e : DecodeError}
    (h : decodeLznaBh false (s.sourceBits s.loc.s s.srcLen 5) = .error e) : beginLzna params s = .ok () s := by
  simp only [beginLzna, Eng.bind_run, getState_run, params_grammar, grammar_headerBytes, headerSize_lznaBh, decode_lznaBh,
    h]
  rfl

/-- A fault raised after what `m` wrote. -/
theorem settle_then_raise {m : Eng Unit} {s u : State} {c : Cause} (hm : m s = .ok () u) (hc : c ≠ .e47) :
    ∃ t, settle (do m; raise c) s = .next t ∧ FaultTaken c.cls.number c.number u t := by
  refine ⟨takeFault c u, settle_raise (t := u) ?_, takeFault_spec c u hc⟩
  rw [Eng.bind_ok hm, raise_run]

/-- The source bits at a Kraken-family header whose first word is there. -/
theorem krakenBits_split {s : State} (h : s.loc.s + 3 ≤ s.srcLen) :
    ∃ rest, s.sourceBits s.loc.s s.srcLen 6 =
      bitsOf (srcValue s.src s.loc.s ++ srcValue s.src (s.loc.s + 1) ++ srcValue s.src (s.loc.s + 2)) ++ rest := by
  obtain ⟨rest, hrest, -⟩ := sourceBits_split (s := s) (p := s.loc.s) (e := s.srcLen) (k := 6) (n := 3) (by omega)
  exact ⟨rest, by rw [hrest, bitsOfBytes_three]⟩

/-- The source bits at an LZNA-family header whose first word is there. -/
theorem lznaBits_split {s : State} (h : s.loc.s + 2 ≤ s.srcLen) :
    ∃ rest, s.sourceBits s.loc.s s.srcLen 5 = bitsOf (srcValue s.src s.loc.s ++ srcValue s.src (s.loc.s + 1)) ++ rest ∧
      rest.length = 8 * (min 5 (s.srcLen - s.loc.s) - 2) := by
  obtain ⟨rest, hrest, hlen⟩ := sourceBits_split (s := s) (p := s.loc.s) (e := s.srcLen) (k := 5) (n := 2) (by omega)
  exact ⟨rest, by rw [hrest, bitsOfBytes_two], by rw [hlen, Nat.min_self]⟩

/-- R165: what a cut header whose first word is a normal one's has written. -/
theorem beginKraken_word {s : State} {v : BitVec 24} {rest : Bits}
    (hbits : s.sourceBits s.loc.s s.srcLen 6 = bitsOf v ++ rest) (hsize : v.extractLsb' 0 18 ≠ 0x3FFFF#18) :
    beginKraken params s =
      .ok () (s.setBh (codedHeader ((v.extractLsb' 0 18).toNat + 1) (v.getLsbD 19) (v.getLsbD 18) 0)) := by
  apply beginKraken_normal (x := v.extractLsb' 20 4)
  rw [hbits, kraken_firstWord, List.append_assoc, List.cons_append, List.cons_append, decodeKrakenBh_fields, if_pos hsize]
  rfl

theorem beginKraken_sentinel {s : State} {v : BitVec 24} {rest : Bits}
    (hbits : s.sourceBits s.loc.s s.srcLen 6 = bitsOf v ++ rest) (hsize : v.extractLsb' 0 18 = 0x3FFFF#18) :
    beginKraken params s = .ok () s := by
  have hdecode := decodeKrakenBh_fields false (v.extractLsb' 20 4) (v.getLsbD 19) (v.getLsbD 18) (v.extractLsb' 0 18) rest
  rw [← List.cons_append, ← List.cons_append, ← List.append_assoc, ← kraken_firstWord, ← hbits, if_neg (by simp [hsize])]
    at hdecode
  split at hdecode
  next =>
    split at hdecode
    next => exact beginKraken_other hdecode (by intros; simp)
    next => exact beginKraken_other hdecode (by intros; simp)
  next => exact beginKraken_other hdecode (by intros; simp)

theorem beginKraken_short {s : State} (h : s.srcLen < s.loc.s + 3) : beginKraken params s = .ok () s := by
  apply beginKraken_other (i := .krakenBhTruncated)
  · have hlen := sourceBits_length s s.loc.s s.srcLen 6
    rw [decodeKrakenBh, if_pos (by omega)]
  · intros; simp

theorem beginLzna_word {s : State} {v : BitVec 16} {rest : Bits}
    (hbits : s.sourceBits s.loc.s s.srcLen 5 = bitsOf v ++ rest) (hsize : v.extractLsb' 0 14 ≠ 0x3FFF#14) :
    beginLzna params s =
      .ok () (s.setBh (codedHeader ((v.extractLsb' 0 14).toNat + 1) (v.getLsbD 15) (v.getLsbD 14) 0)) := by
  apply beginLzna_normal
  rw [hbits, lzna_firstWord, List.cons_append, List.cons_append, decodeLznaBh_normal _ _ _ hsize]
  rfl

theorem lznaBits_fill (rest : Bits) :
    bitsOf 0x7FFF#16 ++ rest = false :: true :: (bitsOf 0x3FFF#14 ++ rest) := by
  rw [lzna_firstWord]; rfl

/-! ### The step at an LZNA-family header that cannot be read -/

theorem expects_lznaBh {s : State} (hctl : s.ctl = .blockHeader) (hfamily : s.sh.family = .lzna ∨ s.sh.family = .bitknit) :
    s.expects = some (.lznaBh s.sh.useChecksums) := by
  have hlzna : s.sh.family.isLzna params = true := by rcases hfamily with h | h <;> rw [h] <;> rfl
  simp only [State.expects, hctl, hlzna, if_true]

theorem step_lznaTruncated {s u : State} (hdirect : s.direct = []) (hctl : s.ctl = .blockHeader)
    (hfamily : s.sh.family = .lzna ∨ s.sh.family = .bitknit)
    (hdecode : decodeLznaBh s.sh.useChecksums (s.sourceBits s.loc.s s.srcLen 5) = .error .truncatedBlockHeader)
    (hbegin : beginLzna params s = .ok () u) : ∃ t, step s = .next t ∧ FaultTaken 2 7 u t := by
  rw [step_unreadable hdirect (expects_lznaBh hctl hfamily) hdecode]
  exact settle_then_raise hbegin (by decide)

theorem beginLzna_short {s : State} (h : s.srcLen < s.loc.s + 2) (ck : Bool) :
    decodeLznaBh ck (s.sourceBits s.loc.s s.srcLen 5) = .error .truncatedBlockHeader := by
  have hlen := sourceBits_length s s.loc.s s.srcLen 5
  rw [decodeLznaBh, if_pos (by omega)]

/-- Settles O21: the rows write their header; a header cut short has begun as its first word says. -/
theorem blockHeaders : Obligations.BlockHeaders := by
  refine ⟨fun s x flag2 flag1 size ck k => ?kraken, fun s flag2 flag1 size ck k => ?lzna, fun s => ?krakenCut,
    fun s hdirect hctl hfamily => ?lznaCut⟩
  case kraken =>
    intro read
    refine ⟨settle_acceptBlockHeader _ 3 s, ?_, ?_⟩
    · exact (settle_acceptBlockHeader _ 6 s).trans (by rw [params_krakenSize, codedHeader_eq]; rfl)
    · exact (settle_acceptBlockHeader _ 4 s).trans (by rw [fillHeader_eq]; rfl)
  case lzna =>
    intro read
    refine ⟨settle_acceptBlockHeader _ 2 s, ?_, ?_, settle_acceptBlockHeader _ 2 s⟩
    · exact (settle_acceptBlockHeader _ 5 s).trans (by rw [params_lznaSize, codedHeader_eq]; rfl)
    · exact (settle_acceptBlockHeader _ 3 s).trans (by rw [fillHeader_eq]; rfl)
  case krakenCut =>
    intro p v size
    refine ⟨fun hthere hsize => ?_, fun hcut => ?_⟩
    · obtain ⟨rest, hbits⟩ := krakenBits_split hthere
      exact settle_then_raise (beginKraken_word hbits hsize) (by decide)
    · by_cases hthere : p + 3 ≤ s.srcLen
      · obtain ⟨rest, hbits⟩ := krakenBits_split hthere
        exact settle_then_raise (beginKraken_sentinel hbits (hcut.resolve_left (by omega))) (by decide)
      · exact settle_then_raise (beginKraken_short (by omega)) (by decide)
  case lznaCut =>
    intro p v size
    refine ⟨fun hcut => ?_, fun hck hthere hcut hsize => ?_, fun hlen hv => ?_⟩
    · exact step_lznaTruncated hdirect hctl hfamily (beginLzna_short hcut _) (beginLzna_error (beginLzna_short hcut false))
    · obtain ⟨rest, hbits, hrest⟩ := lznaBits_split hthere
      refine step_lznaTruncated hdirect hctl hfamily ?_ (beginLzna_word hbits hsize)
      rw [hbits, lzna_firstWord, List.cons_append, List.cons_append, decodeLznaBh_normal _ _ _ hsize, if_pos hck,
        if_pos (by omega)]
    · obtain ⟨rest, hbits, hrest⟩ := lznaBits_split (s := s) (by omega)
      have hdecode (ck : Bool) : decodeLznaBh ck (s.sourceBits s.loc.s s.srcLen 5) = .error .truncatedBlockHeader := by
        rw [hbits, show srcValue s.src s.loc.s ++ srcValue s.src (s.loc.s + 1) = 0x7FFF#16 from hv, lznaBits_fill,
          decodeLznaBh_sentinel]
        exact if_pos (by omega)
      exact step_lznaTruncated hdirect hctl hfamily (hdecode _) (beginLzna_error (hdecode false))

/-! ### The whole-match fill (R172) -/

theorem wholeMatchHeader_none (s : State) : wholeMatchHeader none s = .error (.raise .e12) s := rfl

theorem wholeMatchHeader_fail {f : List Byte → Config.WholeMatchAnswer} {s : State}
    (h : f (srcValues s.src s.loc.s (s.srcLen - s.loc.s)) = .fail) :
    wholeMatchHeader (some f) s = .error (.raise .e55) s := by
  simp only [wholeMatchHeader, Eng.bind_run, getState_run, h, raise_run]

theorem wholeMatchHeader_distance {f : List Byte → Config.WholeMatchAnswer} {s : State} {dist : Word} {hdist : dist ≠ 0}
    {n : Nat} (h : f (srcValues s.src s.loc.s (s.srcLen - s.loc.s)) = .distance dist hdist n) :
    wholeMatchHeader (some f) s =
      if s.loc.s + n ≤ s.srcLen then acceptBlockHeader (fillHeader s.bh dist 0) n s else .error (.raise .e07) s := by
  by_cases hfits : s.loc.s + n ≤ s.srcLen
  · simp only [wholeMatchHeader, Eng.bind_run, getState_run, h, decide_eq_true hfits, require_true, if_pos hfits]
  · simp only [wholeMatchHeader, Eng.bind_run, getState_run, h, decide_eq_false hfits, require_false, if_neg hfits]

theorem exec_wholeMatch (s : State) :
    exec .lznaBhWholeMatch s = settle (wholeMatchHeader Config.lznaWholeMatchCodec) s := rfl

/-- Settles O22: by the codec and its answer. -/
theorem lznaWholeMatch : Obligations.LznaWholeMatch := by
  intro s
  have hexec := exec_wholeMatch s
  cases hcodec : Config.lznaWholeMatchCodec with
  | none =>
    rw [hcodec] at hexec
    exact faults_of_raise hexec (wholeMatchHeader_none s) (by decide)
  | some f =>
    rw [hcodec] at hexec
    dsimp only
    cases hanswer : f (srcValues s.src s.loc.s (s.srcLen - s.loc.s)) with
    | fail => exact faults_of_raise hexec (wholeMatchHeader_fail hanswer) (by decide)
    | distance dist hdist n =>
      have hrun := wholeMatchHeader_distance hanswer
      refine ⟨fun hfits => ?_, fun hpast => ?_⟩
      · rw [if_pos hfits] at hrun
        rw [hexec, settle, hrun]
        rfl
      · rw [if_neg (by omega)] at hrun
        exact faults_of_raise hexec hrun (by decide)

end Machine
end Sys2Proof
end

section
/-! Sub-chunk headers (R310, R319 to R321) and chunks (R230 to R243): where they complete, and the checks that reject them. -/

namespace Sys2Proof.Machine

/-- The outcome is settled by the result alone. -/
theorem settle_of_run_eq {m m' : Eng Unit} {s u : State} (h : m s = m' u) : settle m s = settle m' u := by
  rw [settle, h, settle]

/-- The fault of a computation that raises it having reached `u`. -/
theorem faultTaken_of_raise {o : Host.Outcome State Fault Refusal} {c : Cause} {m : Eng Unit} {s u : State}
    (houtcome : o = settle m s) (hraise : m s = .error (.raise c) u) (hc : c ≠ .e47) :
    ∃ t, o = .next t ∧ FaultTaken c.cls.number c.number u t :=
  ⟨takeFault c u, houtcome.trans (settle_raise hraise), takeFault_spec c u hc⟩

/-! ### Sub-chunk headers -/

/-- R310: the sub-chunk's header has been passed. -/
def State.subchunkPassed (s : State) : State := { s with loc := { s.loc with p := s.loc.p + 3 } }

theorem lzSubchunk_e16 {s : State} {mode used : Nat} (h : s.loc.e < s.loc.p + 3 + used) :
    lzSubchunk mode used params s = .error (.raise .e16) s.subchunkPassed := by
  simp [lzSubchunk, Nat.not_le.2 h]
  rfl

theorem lzSubchunk_e17 {s : State} {mode used : Nat} (hfits : s.loc.p + 3 + used ≤ s.loc.e) (hlong : s.loc.cnt ≤ used)
    (hmode : ¬(used = s.loc.cnt ∧ mode = 0)) : lzSubchunk mode used params s = .error (.raise .e17) s.subchunkPassed := by
  simp [lzSubchunk, hfits, Nat.not_lt.2 hlong, hmode]
  rfl

theorem lzSubchunk_lz {s : State} {mode used : Nat} (hfits : s.loc.p + 3 + used ≤ s.loc.e) (hshort : used < s.loc.cnt) :
    lzSubchunk mode used params s = .ok ()
      { s with loc := { s.loc with p := s.loc.p + 3, mode := mode, lp := s.loc.p + 3, q := s.loc.p + 3 + used },
               ctl := .tableStart } := by
  simp [lzSubchunk, hfits, hshort]
  rfl

theorem lzSubchunk_stored {s : State} {used : Nat} (hfits : s.loc.p + 3 + used ≤ s.loc.e) (hused : used = s.loc.cnt)
    (hsrc : s.loc.e ≤ s.srcLen) (hdst : s.loc.d + s.loc.cnt ≤ s.dstLen) :
    lzSubchunk 0 used params s = .ok ()
      { s with dst := Memory.writeList s.dst s.loc.d (srcValues s.src (s.loc.p + 3) s.loc.cnt), ctl := .quantumLoop,
               loc := { s.loc with p := s.loc.p + 3 + used, d := s.loc.d + s.loc.cnt } } := by
  subst hused
  have hcopy := copySrc_ok (s := s.setLoc { s.loc with p := s.loc.p + 3 }) (o := s.loc.d) (i := s.loc.p + 3) (n := s.loc.cnt)
    (.inr (Nat.le_trans hfits hsrc)) (.inr hdst)
  simp [lzSubchunk, hfits, hcopy]
  rfl

/-- Settles O23: the header is passed, and each check holds. -/
theorem subchunkHeaders : Obligations.SubchunkHeaders := by
  intro s
  refine ⟨fun _ => rfl, fun m u hfits hshort => settle_ok (lzSubchunk_lz hfits hshort), fun u hfits hused hsrc hdst => ?_⟩
  exact ⟨_, settle_ok (lzSubchunk_stored hfits hused hsrc hdst), rfl, Memory.stored_srcValues _ _ _ _ _⟩

/-- Settles O24: the first check that fails. -/
theorem subchunkFaults : Obligations.SubchunkFaults := by
  intro s m u s'
  refine ⟨fun hpast => ?_, fun hfits hlong => ?_, fun hfits hused hmode => ?_⟩
  · exact ⟨faultTaken_of_raise rfl (lzSubchunk_e16 hpast) (by decide), faultTaken_of_raise rfl (lzSubchunk_e16 hpast) (by decide)⟩
  · have hraise (mode : Nat) := lzSubchunk_e17 (mode := mode) hfits (Nat.le_of_lt hlong) (by omega)
    exact ⟨faultTaken_of_raise rfl (hraise _) (by decide), faultTaken_of_raise rfl (hraise _) (by decide)⟩
  · have hmode' : m.toNat ≠ 0 := fun h => hmode (BitVec.eq_of_toNat_eq h)
    exact faultTaken_of_raise rfl (lzSubchunk_e17 hfits (Nat.le_of_eq hused.symm) fun h => hmode' h.2) (by decide)

/-! ### Copy chunks (R233 to R235) -/

theorem copyChunk_run {s : State} {hdr size : Nat} (h : s.copyFits hdr size) :
    copyChunk hdr size params s = deliver (s.copied hdr size) (hdr + size) params s := by
  obtain ⟨hcap, hrange, hsrc⟩ := h
  simp only [copyChunk, Eng.bind_run, getState_run, params_capacityFirst, if_true, decide_eq_true hcap, decide_eq_true hrange,
    require_true, srcBytes_ok (.inr (Nat.le_trans hrange hsrc))]

theorem copyChunk_e22 {s : State} {hdr size : Nat} (h : s.loc.cap < size) :
    copyChunk hdr size params s = .error (.raise .e22) s := by
  simp only [copyChunk, Eng.bind_run, getState_run, params_capacityFirst, if_true, decide_eq_false (Nat.not_le.2 h),
    require_false]

theorem copyChunk_e23 {s : State} {hdr size : Nat} (hcap : size ≤ s.loc.cap) (h : s.loc.cend < s.loc.cp + hdr + size) :
    copyChunk hdr size params s = .error (.raise .e23) s := by
  simp only [copyChunk, Eng.bind_run, getState_run, params_capacityFirst, if_true, decide_eq_true hcap, require_true,
    decide_eq_false (Nat.not_le.2 h), require_false]

theorem settle_deliver {s : State} {out : List Byte} {n : Nat} (h : s.accepts out n) :
    ∃ t, settle (deliver out n) s = .next t ∧ s.Delivered out n t := by
  obtain ⟨t, hrun, hdelivered⟩ := deliver_spec h
  exact ⟨t, settle_ok hrun, hdelivered⟩

theorem exec_chunkCopyShort (z : BitVec 12) (s : State) : exec (.chunkCopyShort z) s = settle (copyChunk 2 z.toNat) s := rfl

theorem exec_chunkCopyLong (z : BitVec 18) (s : State) : exec (.chunkCopyLong z) s = settle (copyChunk 3 z.toNat) s := rfl

/-- Settles O25: the checks pass, and the bytes are delivered. -/
theorem copyChunks : Obligations.CopyChunks := by
  intro s
  refine ⟨fun z hfits haccepts => ?_, fun z hfits haccepts => ?_⟩
  · rw [exec_chunkCopyShort, settle_of_run_eq (copyChunk_run hfits)]
    exact settle_deliver haccepts
  · rw [exec_chunkCopyLong, settle_of_run_eq (copyChunk_run hfits)]
    exact settle_deliver haccepts

/-- Settles O27: the checks pass, and the caller rejects. -/
theorem chunkCallerFaults : Obligations.ChunkCallerFaults := by
  rintro s i hdr size (⟨z, rfl, rfl, rfl⟩ | ⟨z, rfl, rfl, rfl⟩) hfits hrejects
  · rw [exec_chunkCopyShort, settle_of_run_eq (copyChunk_run hfits)]
    exact deliver_rejects hrejects
  · rw [exec_chunkCopyLong, settle_of_run_eq (copyChunk_run hfits)]
    exact deliver_rejects hrejects

/-! ### Compressed chunks (R236 to R239) -/

/-- R191, R192, R239: a Huffman chunk whose payload fits. -/
theorem huffChunk_ok {s : State} {hdr srcSize dstSize : Nat} (type : Nat) (h : s.payloadFits hdr srcSize dstSize) :
    huffChunk type hdr srcSize dstSize params s = .ok () (s.huffStarted type hdr srcSize dstSize) := by
  rw [huffChunk, Eng.bind_ok (checkPayload_ok h)]
  rfl

/-- Settles O28: the payload checks pass in both layouts. -/
theorem huffChunks : Obligations.HuffChunks := by
  intro s hsrc
  refine ⟨fun d z hfits => ⟨settle_ok (huffChunk_ok 2 hfits), settle_ok (huffChunk_ok 4 hfits)⟩, fun d z hlt hfits => ?_⟩
  have hlong (type : Nat) : settle (do longSizes z.toNat (d.toNat + 1); huffChunk type 5 z.toNat (d.toNat + 1)) s =
      .next (s.huffStarted type 5 z.toNat (d.toNat + 1)) := by
    refine settle_ok ?_
    rw [Eng.bind_ok (longSizes_ok hlt s), huffChunk_ok type hfits]
  exact ⟨hlong 2, hlong 4⟩

/-- R238: every compressed chunk of the short layout begins with the payload checks. -/
theorem exec_compressedShort {i : Instr} {d z : BitVec 10} (s : State)
    (h : i = .chunkTansShort d z ∨ i = .chunkHuff2Short d z ∨ i = .chunkRleShort d z ∨ i = .chunkHuff4Short d z ∨
      i = .chunkRecursiveShort d z) :
    ∃ rest : Eng Unit, exec i s = settle (do checkPayload 3 z.toNat (z.toNat + d.toNat + 1); rest) s := by
  rcases h with rfl | rfl | rfl | rfl | rfl <;> exact ⟨_, rfl⟩

/-- R237, R238: every compressed chunk of the long layout begins with its size check and the payload checks. -/
theorem exec_compressedLong {i : Instr} {d z : BitVec 18} (s : State)
    (h : i = .chunkTansLong d z ∨ i = .chunkHuff2Long d z ∨ i = .chunkRleLong d z ∨ i = .chunkHuff4Long d z ∨
      i = .chunkRecursiveLong d z) :
    ∃ rest : Eng Unit, exec i s =
      settle (do longSizes z.toNat (d.toNat + 1); checkPayload 5 z.toNat (d.toNat + 1); rest) s := by
  rcases h with rfl | rfl | rfl | rfl | rfl <;> exact ⟨_, rfl⟩

theorem longSizes_raise {srcSize dstSize : Nat} (h : dstSize ≤ srcSize) (s : State) :
    longSizes srcSize dstSize params s = .error (.raise .e24) s := by
  rw [longSizes, params_longSizesOk, decide_eq_false (by omega), require_false]

theorem checkPayload_e23 {s : State} {hdr srcSize dstSize : Nat} (h : s.loc.cend < s.loc.cp + hdr + srcSize) :
    checkPayload hdr srcSize dstSize s = .error (.raise .e23) s := by
  simp only [checkPayload, Eng.bind_run, getState_run, decide_eq_false (Nat.not_le.2 h), require_false]

theorem checkPayload_e25 {s : State} {hdr srcSize dstSize : Nat} (hrange : s.loc.cp + hdr + srcSize ≤ s.loc.cend)
    (h : s.loc.cap < dstSize) : checkPayload hdr srcSize dstSize s = .error (.raise .e25) s := by
  simp only [checkPayload, Eng.bind_run, getState_run, decide_eq_true hrange, require_true, decide_eq_false (Nat.not_le.2 h),
    require_false]

/-! ### Chunks cut short (R231, R234) -/

theorem expects_chunk {s : State} (hctl : s.ctl = .chunk) : s.expects = some .chunk := by
  rw [State.expects, hctl]

/-- R88: a byte as the chunk header reads it: the layout bit, the type and four more bits. -/
theorem chunk_firstByte (b : Byte) :
    bitsOf b = decide (128 ≤ b.toNat) :: (bitsOf (BitVec.ofNat 3 (b.toNat / 16)) ++ bitsOf (b.extractLsb' 0 4)) := by
  revert b
  decide

theorem decodeCompressed_truncated {short : Bool} {total : Nat} (h : total < if short then 24 else 40) (bs : Bits)
    (mkShort : BitVec 10 → BitVec 10 → Instr) (mkLong : BitVec 18 → BitVec 18 → Instr) :
    decodeCompressed short total bs mkShort mkLong = .error .truncatedChunkHeader := by
  cases short with
  | true => rw [decodeCompressed, if_pos rfl, if_pos (show total < 24 from h)]
  | false => rw [decodeCompressed, if_neg (by decide), if_pos (show total < 40 from h)]

/-- R234: a header of a legal type that the range cuts short. -/
theorem decodeChunk_truncated {short : Bool} {type : BitVec 3} {rest : Bits} (hrest : 12 ≤ rest.length)
    (htype : type.toNat ≤ 5) (hcopy : ¬(type = 0#3 ∧ short = true))
    (hlen : 4 + rest.length < if type = 0#3 then 24 else if short then 24 else 40) :
    decodeChunk (short :: (bitsOf type ++ rest)) = .error .truncatedChunkHeader := by
  rw [decodeChunk_fields short type rest hrest]
  rcases bitVec3_cases type with rfl | rfl | rfl | rfl | rfl | rfl | rfl | rfl
  · have hshort : ¬ short = true := fun h => hcopy ⟨rfl, h⟩
    rw [if_pos rfl, if_neg hshort, if_pos (show 4 + rest.length < 24 from hlen)]
  · exact decodeCompressed_truncated hlen ..
  · exact decodeCompressed_truncated hlen ..
  · exact decodeCompressed_truncated hlen ..
  · exact decodeCompressed_truncated hlen ..
  · exact decodeCompressed_truncated hlen ..
  · exact absurd htype (by decide)
  · exact absurd htype (by decide)

theorem unreadable_truncatedChunk (s : State) : unreadable .truncatedChunk params s = .error (.raise .e19) s := rfl

theorem unreadable_truncatedChunkHeader (s : State) :
    unreadable .truncatedChunkHeader params s = .error (.raise .e20) s := rfl

/-- Settles O26: each row reaches its first failing check; a header cut short does not decode. -/
theorem chunkSizeFaults : Obligations.ChunkSizeFaults := by
  refine ⟨fun s => ⟨fun z => ?short, fun z => ?long⟩, fun s i hdr srcSize dstSize hi => ?compressed,
    fun s hdirect hctl hend => ?cut⟩
  case short =>
    exact ⟨fun hcap => faults_of_raise rfl (copyChunk_e22 hcap) (by decide),
      fun hcap hrange => faults_of_raise rfl (copyChunk_e23 hcap hrange) (by decide)⟩
  case long =>
    exact ⟨fun hcap => faults_of_raise rfl (copyChunk_e22 hcap) (by decide),
      fun hcap hrange => faults_of_raise rfl (copyChunk_e23 hcap hrange) (by decide)⟩
  case compressed =>
    rcases hi with ⟨d, z, hi, rfl, rfl, rfl⟩ | ⟨d, z, hi, rfl, rfl, rfl⟩
    · obtain ⟨rest, hexec⟩ := exec_compressedShort s hi
      exact ⟨fun hsizes => by omega,
        fun _ hrange => faults_of_raise (c := .e23) hexec (Eng.bind_error (checkPayload_e23 hrange)) (by decide),
        fun _ hrange hcap => faults_of_raise (c := .e25) hexec (Eng.bind_error (checkPayload_e25 hrange hcap)) (by decide)⟩
    · obtain ⟨rest, hexec⟩ := exec_compressedLong s hi
      refine ⟨fun hsizes => faults_of_raise (c := .e24) hexec (Eng.bind_error (longSizes_raise hsizes s)) (by decide),
        fun hsizes hrange => faults_of_raise (c := .e23) hexec ?_ (by decide),
        fun hsizes hrange hcap => faults_of_raise (c := .e25) hexec ?_ (by decide)⟩
      · rw [Eng.bind_ok (longSizes_ok hsizes s), Eng.bind_error (checkPayload_e23 hrange)]
      · rw [Eng.bind_ok (longSizes_ok hsizes s), Eng.bind_error (checkPayload_e25 hrange hcap)]
  case cut =>
    intro b type hdr
    have hlength := sourceBits_length s s.loc.cp s.loc.cend 5
    refine ⟨fun hcut => ?_, fun hthere hcut htype hcopy => ?_⟩
    · have hdecode : decodeChunk (s.sourceBits s.loc.cp s.loc.cend 5) = .error .truncatedChunk := by
        rw [decodeChunk, if_pos (by omega)]
      exact stepFaults_of_raise (step_unreadable hdirect (expects_chunk hctl) hdecode) (unreadable_truncatedChunk s) (by decide)
    · obtain ⟨rest, hbits, hrest⟩ := sourceBits_split (s := s) (p := s.loc.cp) (e := s.loc.cend) (k := 5) (n := 1) (by omega)
      have hfirst : bitsOfBytes (srcValues s.src s.loc.cp 1) = bitsOf (srcValue s.src s.loc.cp) := by
        simp [srcValues, bitsOfBytes]
      have htypeNat : (BitVec.ofNat 3 (b / 16)).toNat = type := BitVec.toNat_ofNat ..
      have htypeZero : BitVec.ofNat 3 (b / 16) = 0#3 ↔ type = 0 := by rw [← htypeNat, ← BitVec.toNat_inj]; rfl
      have hdecode : decodeChunk (s.sourceBits s.loc.cp s.loc.cend 5) = .error .truncatedChunkHeader := by
        rw [hbits, hfirst, chunk_firstByte, List.cons_append, List.append_assoc]
        refine decodeChunk_truncated ?_ (Nat.le_trans (Nat.le_of_eq htypeNat) htype) ?_ ?_
        · simp; omega
        · rw [htypeZero, decide_eq_true_eq]; exact hcopy
        · have hhdr : (if BitVec.ofNat 3 (b / 16) = 0#3 then 24 else if decide (128 ≤ b) = true then 24 else 40) = 8 * hdr := by
            simp only [htypeZero, decide_eq_true_eq, hdr]
            split
            · rfl
            · split <;> rfl
          rw [hhdr, List.length_append, bitsOf_length]
          omega
      exact stepFaults_of_raise (step_unreadable hdirect (expects_chunk hctl) hdecode) (unreadable_truncatedChunkHeader s)
        (by decide)

end Sys2Proof.Machine
end

section
/-! The steps of the sequencer inside a Kraken block: the quantum loop (R310, R313), read_table and unpack_offsets (R260 to R287), the LZ
runs (R311, R320), and the end of a code-length read (R199, R210, R215). -/

namespace Sys2Proof.Machine

/-! ### The quantum loop (R310, R313) -/

theorem step_quantumLoop {s : State} (hdirect : s.direct = []) (hctl : s.ctl = .quantumLoop) :
    step s = settle quantumLoop s :=
  step_eq_sequence hdirect hctl rfl (by rw [State.expects, hctl])

/-- R310: the sub-chunk's output size has been chosen. -/
def State.subchunkSized (s : State) : State :=
  { s with loc := { s.loc with cnt := min 131072 (s.off + s.loc.bs - s.loc.d) } }

theorem quantumLoop_header {s : State} (hmore : s.loc.d < s.off + s.loc.bs) (hfits : s.loc.p + 4 ≤ s.loc.e) :
    quantumLoop params s = .ok () (s.subchunkSized.setCtl .subHeader) := by
  simp [quantumLoop, hmore, hfits]
  rfl

theorem quantumLoop_e15 {s : State} (hmore : s.loc.d < s.off + s.loc.bs) (hshort : s.loc.e < s.loc.p + 4) :
    quantumLoop params s = .error (.raise .e15) s.subchunkSized := by
  simp [quantumLoop, hmore, Nat.not_le.2 hshort]
  rfl

theorem quantumLoop_done {s : State} (hlast : s.off + s.loc.bs ≤ s.loc.d)
    (hused : s.loc.p = s.loc.s + s.bh.compressedSize.toNat) :
    quantumLoop params s = .ok ()
      { s with loc := { s.loc with s := s.loc.s + s.bh.compressedSize.toNat }, ctl := .blockEnd } := by
  simp [quantumLoop, Nat.not_lt.2 hlast, hused]
  rfl

theorem quantumLoop_e14 {s : State} (hlast : s.off + s.loc.bs ≤ s.loc.d)
    (hused : s.loc.p ≠ s.loc.s + s.bh.compressedSize.toNat) : quantumLoop params s = .error (.raise .e14) s := by
  have hcheck : (s.loc.p == s.loc.s + s.bh.compressedSize.toNat) = false := beq_eq_false_iff_ne.2 hused
  simp [quantumLoop, Nat.not_lt.2 hlast, hcheck]

/-- Settles O55: the loop goes on or ends. -/
theorem Quantum.quantumLoop : Obligations.QuantumLoop := by
  intro s hdirect hctl stop s' size
  have hstep := step_quantumLoop hdirect hctl
  exact ⟨fun hmore hfits => hstep.trans (settle_ok (quantumLoop_header hmore hfits)),
    fun hmore hshort => faultTaken_of_raise hstep (quantumLoop_e15 hmore hshort) (by decide),
    fun hlast hused => hstep.trans (settle_ok (quantumLoop_done hlast hused)),
    fun hlast hused => stepFaults_of_raise hstep (quantumLoop_e14 hlast hused) (by decide)⟩

/-! ### read_table's start (R261 to R263) -/

theorem step_tableStart {s : State} (hdirect : s.direct = []) (hctl : s.ctl = .tableStart) :
    step s = settle tableStart s :=
  step_eq_sequence hdirect hctl rfl (by rw [State.expects, hctl])

theorem tableStart_e40 {s : State} (hmode : 1 < s.loc.mode) : tableStart params s = .error (.raise .e40) s := by
  simp [tableStart, Nat.not_le.2 hmode]

theorem tableStart_e41 {s : State} (hmode : s.loc.mode ≤ 1) (hshort : s.loc.q < s.loc.lp + 13) :
    tableStart params s = .error (.raise .e41) s := by
  simp [tableStart, hmode, Nat.not_le.2 hshort]

theorem tableStart_later {s : State} (hmode : s.loc.mode ≤ 1) (hfits : s.loc.lp + 13 ≤ s.loc.q) (hd : s.loc.d ≠ 0) :
    tableStart params s = .ok () { s with ctl := .lzFlag } := by
  simp [tableStart, hmode, hfits, hd]
  rfl

theorem tableStart_first {s : State} (hmode : s.loc.mode ≤ 1) (hfits : s.loc.lp + 13 ≤ s.loc.q) (hd : s.loc.d = 0)
    (hsrc : s.loc.q ≤ s.srcLen) (hdst : 8 ≤ s.dstLen) :
    tableStart params s = .ok ()
      { s with dst := Memory.writeList s.dst 0 (srcValues s.src s.loc.lp 8), loc := { s.loc with lp := s.loc.lp + 8 },
               ctl := .lzFlag } := by
  have hseed : copySrc 0 s.loc.lp seedSize s = .ok () (s.setDst (Memory.writeList s.dst 0 (srcValues s.src s.loc.lp 8))) :=
    copySrc_ok (.inr (show s.loc.lp + 8 ≤ s.srcLen by omega)) (.inr (show 0 + 8 ≤ s.dstLen by omega))
  simp [tableStart, hmode, hfits, hd, hseed]
  rfl

/-! ### unpack_offsets' start (R272, R273) -/

theorem step_unpackStart {s : State} (hdirect : s.direct = []) (hctl : s.ctl = .unpackStart) :
    step s = settle (unpackStart Config.scratchOk) s :=
  step_eq_sequence hdirect hctl rfl (by rw [State.expects, hctl])

/-- R272: the scratch predicate's answer; without one there is room. -/
def State.scratchFits (ok : Option (Nat → Nat → Nat → Nat → Nat → Bool)) (s : State) : Bool :=
  match ok with
  | none => true
  | some f => f s.lt.lit.length s.lt.cmd.length s.lt.offsPacked.length s.lt.lenPacked.length s.loc.cnt

theorem unpackStart_ok {ok : Option (Nat → Nat → Nat → Nat → Nat → Bool)} {s : State} (h : s.scratchFits ok = true) :
    unpackStart ok params s = .ok ()
      { s with a := Cursor.initFwd s.source s.loc.lp s.loc.q, b := Cursor.initBwd s.source s.loc.lp s.loc.q,
               lt := { s.lt with offs := [], lens := [], side := [] }, ctl := .sideCount } := by
  have hrequire : require (s.scratchFits ok) .e44 s = .ok () s := by rw [h, require_true]
  rw [unpackStart, Eng.bind_ok (getState_run s)]
  exact (Eng.bind_ok hrequire).trans rfl

theorem unpackStart_e44 {ok : Option (Nat → Nat → Nat → Nat → Nat → Bool)} {s : State} (h : s.scratchFits ok = false) :
    unpackStart ok params s = .error (.raise .e44) s := by
  have hrequire : require (s.scratchFits ok) .e44 s = .error (.raise .e44) s := by rw [h, require_false]
  rw [unpackStart, Eng.bind_ok (getState_run s)]
  exact Eng.bind_error hrequire

/-- Settles O56: the checks in order, and the scratch predicate. -/
theorem lzTableStart : Obligations.LzTableStart := by
  refine fun s hdirect => ⟨fun hctl => ?table, fun hctl hslice hsrc => ?unpack⟩
  case table =>
    have hstep := step_tableStart hdirect hctl
    refine ⟨fun hmode => stepFaults_of_raise hstep (tableStart_e40 hmode) (by decide),
      fun hmode hshort => stepFaults_of_raise hstep (tableStart_e41 hmode hshort) (by decide),
      fun hmode hfits hd => hstep.trans (settle_ok (tableStart_later hmode hfits hd)), fun hmode hfits hd hsrc hdst => ?_⟩
    exact ⟨_, hstep.trans (settle_ok (tableStart_first hmode hfits hd hsrc hdst)), rfl, Memory.stored_srcValues _ _ _ _ _⟩
  case unpack =>
    have hstep := step_unpackStart hdirect hctl
    show if s.scratchFits Config.scratchOk = true then _ else _
    split
    next hfits => exact hstep.trans (settle_ok (unpackStart_ok hfits))
    next hfull => exact stepFaults_of_raise hstep (unpackStart_e44 (Bool.eq_false_iff.2 hfull)) (by decide)

/-! ### After the offsets (R277, R278, R283) -/

theorem step_offsetsDone {s : State} (hdirect : s.direct = []) (hctl : s.ctl = .offsets)
    (hlast : s.lt.offsPacked.length ≤ s.loc.idx) : step s = settle offsetsDone s :=
  step_eq_sequence hdirect hctl rfl (by simp only [State.expects, hctl, if_neg (Nat.not_lt.2 hlast)])

theorem sideBound_ok {s : State} (h : s.loc.sideCount ≤ 512) :
    sideBound params s = .ok () { s with loc := { s.loc with idx := 0 }, ctl := .sideValues } := by
  simp [sideBound, h]
  rfl

theorem sideBound_e46 {s : State} (h : 512 < s.loc.sideCount) : sideBound params s = .error (.raise .e46) s := by
  simp [sideBound, Nat.not_le.2 h]

/-- R277: the offsets hold these values. -/
def State.withOffsets (s : State) (offs : List Word) : State := { s with lt := { s.lt with offs := offs } }

theorem offsetsDone_unscaled {s : State} (h : s.lt.scaling ≤ 1) : offsetsDone params s = sideBound params s := by
  simp [offsetsDone, show ¬ 2 ≤ s.lt.scaling by omega]

theorem offsetsDone_corrected {s : State} {offs : List Word} (hscaled : 2 ≤ s.lt.scaling)
    (h : correctOffsets s.lt.scaling s.lt.offs (s.lt.extra.getD []) = (offs, none)) :
    offsetsDone params s = sideBound params (s.withOffsets offs) := by
  simp [offsetsDone, hscaled, h]
  rfl

theorem offsetsDone_stopped {s : State} {offs : List Word} {c : Cause} (hscaled : 2 ≤ s.lt.scaling)
    (h : correctOffsets s.lt.scaling s.lt.offs (s.lt.extra.getD []) = (offs, some c)) :
    offsetsDone params s = .error (.raise c) (s.withOffsets offs) := by
  simp [offsetsDone, hscaled, h]
  rfl

/-- Settles O57: the correction of every offset, or of those below the first misfit. -/
theorem Offsets.offsetsDone : Obligations.OffsetsDone := by
  intro s xs hdirect hctl hlast hextra hlength exact offs fits inRange s'
  have hstep := step_offsetsDone hdirect hctl hlast
  have hrun (hin : inRange) : settle Machine.offsetsDone s = settle sideBound s' := by
    refine settle_of_run_eq ?_
    by_cases hscaled : 2 ≤ s.lt.scaling
    · have hcorrect := correctOffsets_ok s.lt.scaling s.lt.offs xs (hlength.resolve_right (by omega))
        (hin.resolve_left (by omega))
      rw [← hextra] at hcorrect
      rw [offsetsDone_corrected hscaled hcorrect, hextra]
      simp only [s', offs, if_pos hscaled]
      rfl
    · rw [offsetsDone_unscaled (by omega)]
      simp only [s', offs, if_neg hscaled]
  refine ⟨fun hin hcount => ?_, fun hin hcount => ?_, fun k v hscaled hv hmisfit hbelow => ?_⟩
  · exact hstep.trans ((hrun hin).trans (settle_ok (sideBound_ok (s := s') hcount)))
  · exact faultTaken_of_raise (hstep.trans (hrun hin)) (sideBound_e46 (s := s') hcount) (by decide)
  · have hcorrect := correctOffsets_stop s.lt.scaling s.lt.offs xs k v (hlength.resolve_right (by omega)) hv hmisfit hbelow
    rw [← hextra] at hcorrect
    have hraise := offsetsDone_stopped hscaled hcorrect
    rw [hextra] at hraise
    exact faultTaken_of_raise hstep hraise (by decide)

/-! ### The LZ bytes (R264, R268, R286) -/

theorem lengthEscape_ok {s : State} {w : Word} (hleft : s.loc.sideUsed < s.loc.sideCount)
    (hvalue : s.lt.side[s.loc.sideUsed]? = some w) :
    lengthEscape params s = .ok ()
      { s with lt := { s.lt with lens := s.lt.lens ++ [BitVec.ofNat 32 (w.toNat + 255 + 3)] },
               loc := { s.loc with idx := s.loc.idx + 1, sideUsed := s.loc.sideUsed + 1 } } := by
  simp [lengthEscape, hleft, hvalue]
  rfl

theorem lengthEscape_e50 {s : State} (h : s.loc.sideCount ≤ s.loc.sideUsed) :
    lengthEscape params s = .error (.raise .e50) s := by
  simp [lengthEscape, Nat.not_lt.2 h]

/-- R268: the scaling is the selector byte minus 127. -/
theorem scalingOf_eq (x : BitVec 7) : scalingOf x = (128 + x.toNat) - 127 := by
  rw [scalingOf]
  omega

/-- Settles O43: each row evaluated, the escape by the side values left. -/
theorem lzBytes : Obligations.LzBytes :=
  ⟨fun _ x => ⟨rfl, by rw [← scalingOf_eq x]; rfl, rfl⟩, fun _ => ⟨fun _ => rfl, fun _ hleft hvalue => settle_ok (lengthEscape_ok hleft hvalue),
    fun hused => faults_of_raise rfl (lengthEscape_e50 hused) (by decide)⟩⟩

/-! ### The LZ runs (R311, R320) -/

theorem step_lzRuns {s : State} (hdirect : s.direct = []) (hctl : s.ctl = .lzRuns) :
    step s = settle (lzRuns Config.processLzRuns) s :=
  step_eq_sequence hdirect hctl rfl (by rw [State.expects, hctl])

theorem lzRuns_none (s : State) : lzRuns none s = .error (.raise .e58) s := rfl

theorem lzRuns_past {f : Nat → LzTable → Nat → Nat → Config.LzAnswer} {s : State}
    (h : s.loc.cnt - (if s.loc.d = 0 then 8 else 0) < (f s.loc.mode s.lt s.loc.d s.loc.cnt).writes.length) :
    lzRuns (some f) s = .error (.refuse .openContract) s := by
  rw [lzRuns, Eng.bind_ok (getState_run s)]
  exact congrFun (if_pos h) s

/-- R311: a supplied executor's result is looked at after its writes. -/
def lzResult (cnt : Nat) (answer : Config.LzAnswer) : Eng Unit :=
  match answer.result with
  | .fail => raise .e53
  | .misuse => raise .e54
  | .ok =>
    if answer.writes.length = cnt then do
      updateLoc fun l => { l with p := l.q, d := l.d + l.cnt }
      goto .quantumLoop
    else refuse .openContract

theorem lzRuns_written {f : Nat → LzTable → Nat → Nat → Config.LzAnswer} {s t : State} {s0 : Nat}
    (hs0 : s0 = if s.loc.d = 0 then 8 else 0)
    (hlength : (f s.loc.mode s.lt s.loc.d s.loc.cnt).writes.length ≤ s.loc.cnt - s0)
    (hwrites : lzWrites (s.loc.d + s0) s.lt.lit (f s.loc.mode s.lt s.loc.d s.loc.cnt).writes s = .ok () t) :
    lzRuns (some f) s = lzResult (s.loc.cnt - s0) (f s.loc.mode s.lt s.loc.d s.loc.cnt) t := by
  subst hs0
  rw [lzRuns, Eng.bind_ok (getState_run s)]
  exact (congrFun (if_neg (Nat.not_lt.2 hlength)) s).trans (Eng.bind_ok hwrites)

theorem lzResult_fail {cnt : Nat} {answer : Config.LzAnswer} (h : answer.result = .fail) (s : State) :
    lzResult cnt answer s = .error (.raise .e53) s := by
  rw [lzResult, h]; rfl

theorem lzResult_misuse {cnt : Nat} {answer : Config.LzAnswer} (h : answer.result = .misuse) (s : State) :
    lzResult cnt answer s = .error (.raise .e54) s := by
  rw [lzResult, h]; rfl

theorem lzResult_ok {cnt : Nat} {answer : Config.LzAnswer} (h : answer.result = .ok) (hlength : answer.writes.length = cnt)
    (s : State) : lzResult cnt answer s =
      .ok () { s with loc := { s.loc with p := s.loc.q, d := s.loc.d + s.loc.cnt }, ctl := .quantumLoop } := by
  rw [lzResult, h]
  exact congrFun (if_pos hlength) s

/-- Settles O60: the writes are those of the contract, then the result is looked at. -/
theorem Runs.lzRuns : Obligations.LzRuns := by
  intro s hdirect hctl
  have hstep := step_lzRuns hdirect hctl
  cases hproc : Config.processLzRuns with
  | none =>
    rw [hproc] at hstep
    exact stepFaults_of_raise hstep (lzRuns_none s) (by decide)
  | some f =>
    rw [hproc] at hstep
    dsimp only
    refine ⟨fun hpast => hstep.trans (settle_refuse (lzRuns_past hpast)), fun hlength hallowed hfits => ?_⟩
    obtain ⟨hliterals, hcopies⟩ := hallowed
    obtain ⟨m, hwrites, hwritten, hrest⟩ := lzWrites_ok _ _ s.lt.lit s hliterals hcopies hfits
    have hrun := lzRuns_written rfl hlength hwrites
    exact ⟨m, ⟨hwritten, hrest⟩,
      fun hfail => faultTaken_of_raise hstep (hrun.trans (lzResult_fail hfail _)) (by decide),
      fun hmisuse => faultTaken_of_raise hstep (hrun.trans (lzResult_misuse hmisuse _)) (by decide),
      fun hok hall => hstep.trans (settle_ok (hrun.trans (lzResult_ok hok hall _)))⟩

/-! ### The end of a code-length read (R199, R210, R215) -/

theorem step_gammaFinish {s : State} (hdirect : s.direct = []) (hctl : s.ctl = .gammaFinish) :
    step s = settle gammaFinish s :=
  step_eq_sequence hdirect hctl rfl (by rw [State.expects, hctl])

theorem gammaFinish_ok {s : State} (hsym : s.tmp.sym = 256) (hnum : 2 ≤ s.tmp.numSymbols) :
    gammaFinish s = .ok () { s with loc := { s.loc with num := s.tmp.numSymbols }, ctl := .codesDone } := by
  simp [gammaFinish, hsym, hnum]
  rfl

theorem gammaFinish_e34 {s : State} (h : s.tmp.sym ≠ 256 ∨ s.tmp.numSymbols < 2) :
    gammaFinish s = .error (.raise .e34) s := by
  have hcheck : (s.tmp.sym == 256 && decide (2 ≤ s.tmp.numSymbols)) = false := by
    rcases h with h | h
    · simp [h]
    · simp [Nat.not_le.2 h]
  simp [gammaFinish, hcheck]

theorem step_codesDone {s : State} (hdirect : s.direct = []) (hctl : s.ctl = .codesDone) :
    step s = settle (codesDone Config.huffDecode) s :=
  step_eq_sequence hdirect hctl rfl (by rw [State.expects, hctl])

theorem codesDone_one {s : State} {b : Byte} (decoder : Option (Config.HuffArgs → Config.HuffAnswer)) (hnum : s.loc.num = 1)
    (hb : Memory.read s.ct.syms 0 = some b) :
    codesDone decoder params s = deliver (List.replicate s.loc.dstSize b) (s.loc.hdr + s.loc.srcSize) params s := by
  simp only [codesDone, Eng.bind_run, getState_run, if_pos hnum, oneSymbol, hb, params_oneSymbolOutput,
    params_oneSymbolConsumed]

theorem codesDone_many {s : State} (decoder : Option (Config.HuffArgs → Config.HuffAnswer)) (hnum : s.loc.num ≠ 1) :
    codesDone decoder params s = huffSymbols decoder params s := by
  simp only [codesDone, Eng.bind_run, getState_run, if_neg hnum]

/-- R215: what a supplied symbol decoder is given (log entry 18). -/
def State.huffArgs (s : State) : Config.HuffArgs :=
  { type := s.loc.ctype, table := s.ct, num := s.loc.num,
    consumed := s.a.consumedPos - (s.loc.cp + s.loc.hdr : Nat),
    bytes := srcValues s.src s.a.consumedPos.toNat (s.loc.cp + s.loc.hdr + s.loc.srcSize - s.a.consumedPos.toNat),
    dstSize := s.loc.dstSize }

theorem huffSymbols_none (s : State) : huffSymbols none params s = .error (.raise .e57) s := rfl

theorem huffSymbols_fail {f : Config.HuffArgs → Config.HuffAnswer} {s : State} (h : f s.huffArgs = .fail) :
    huffSymbols (some f) params s = .error (.raise .e39) s := by
  rw [State.huffArgs] at h
  simp only [huffSymbols, Eng.bind_run, getState_run, params_codesEnd, h, raise_run]

theorem huffSymbols_misuse {f : Config.HuffArgs → Config.HuffAnswer} {s : State} (h : f s.huffArgs = .misuse) :
    huffSymbols (some f) params s = .error (.raise .e54) s := by
  rw [State.huffArgs] at h
  simp only [huffSymbols, Eng.bind_run, getState_run, params_codesEnd, h, raise_run]

theorem huffSymbols_breach {f : Config.HuffArgs → Config.HuffAnswer} {s : State} {out : List Byte} {n : Nat}
    (h : f s.huffArgs = .decoded out n) (hbreach : ¬(s.ct.Complete ∧ out.length = s.loc.dstSize)) :
    huffSymbols (some f) params s = .error (.refuse .openContract) s := by
  rw [State.huffArgs] at h
  rw [← CodeTable.isComplete_iff] at hbreach
  simp only [huffSymbols, Eng.bind_run, getState_run, params_codesEnd, h]
  exact congrFun (if_neg hbreach) s

theorem huffSymbols_decoded {f : Config.HuffArgs → Config.HuffAnswer} {s : State} {out : List Byte} {n : Nat}
    (h : f s.huffArgs = .decoded out n) (hcomplete : s.ct.Complete) (hlength : out.length = s.loc.dstSize) :
    huffSymbols (some f) params s =
      if n = s.loc.srcSize then deliver out (s.loc.hdr + s.loc.srcSize) params s else .error (.raise .e28) s := by
  rw [State.huffArgs] at h
  have hkept : s.ct.isComplete = true ∧ out.length = s.loc.dstSize := ⟨(CodeTable.isComplete_iff s.ct).2 hcomplete, hlength⟩
  simp only [huffSymbols, Eng.bind_run, getState_run, params_codesEnd, h]
  refine (congrFun (if_pos hkept) s).trans ?_
  by_cases hn : n = s.loc.srcSize
  · rw [if_pos hn, beq_iff_eq.2 hn, Eng.bind_ok (require_true ..)]
  · rw [if_neg hn, beq_eq_false_iff_ne.2 hn, Eng.bind_error (require_false ..)]

/-- Settles O59: the end of the gamma path, one symbol, and the supplied decoder by its answer. -/
theorem codeLengthsDone : Obligations.CodeLengthsDone := by
  refine fun s hdirect => ⟨fun hctl hsym hnum => ?_, fun hctl hbad => ?_, fun b hctl hnum hb haccepts => ?_,
    fun b hctl hnum hb hrejects => ?_, fun hctl hnum => ?_⟩
  · exact (step_gammaFinish hdirect hctl).trans (settle_ok (gammaFinish_ok hsym hnum))
  · exact stepFaults_of_raise (step_gammaFinish hdirect hctl) (gammaFinish_e34 hbad) (by decide)
  · rw [step_codesDone hdirect hctl, settle_of_run_eq (codesDone_one _ hnum hb)]
    exact settle_deliver haccepts
  · rw [step_codesDone hdirect hctl, settle_of_run_eq (codesDone_one _ hnum hb)]
    exact deliver_rejects hrejects
  · have hstep : step s = settle (huffSymbols Config.huffDecode) s :=
      (step_codesDone hdirect hctl).trans (settle_of_run_eq (codesDone_many _ hnum))
    cases hdecoder : Config.huffDecode with
    | none =>
      rw [hdecoder] at hstep
      exact stepFaults_of_raise hstep (huffSymbols_none s) (by decide)
    | some f =>
      rw [hdecoder] at hstep
      dsimp only
      cases hanswer : f s.huffArgs with
      | fail =>
        simp only [State.huffArgs] at hanswer
        rw [hanswer]
        exact stepFaults_of_raise hstep (huffSymbols_fail hanswer) (by decide)
      | misuse =>
        simp only [State.huffArgs] at hanswer
        rw [hanswer]
        exact stepFaults_of_raise hstep (huffSymbols_misuse hanswer) (by decide)
      | decoded out n =>
        simp only [State.huffArgs] at hanswer
        rw [hanswer]
        refine ⟨fun hbreach => hstep.trans (settle_refuse (huffSymbols_breach hanswer hbreach)), fun hcomplete hlength => ?_⟩
        have hrun := huffSymbols_decoded hanswer hcomplete hlength
        refine ⟨fun hn => ?_, fun hn haccepts => ?_, fun hn hrejects => ?_⟩
        · rw [if_neg hn] at hrun
          exact stepFaults_of_raise hstep hrun (by decide)
        · rw [if_pos hn] at hrun
          rw [hstep, settle_of_run_eq hrun]
          exact settle_deliver haccepts
        · rw [if_pos hn] at hrun
          rw [hstep, settle_of_run_eq hrun]
          exact deliver_rejects hrejects

end Sys2Proof.Machine
end

section
/-! The bit-cursor operations issued on their own (R121 to R135), on a cursor of either direction (log entry 17). -/

namespace Sys2Proof.Machine

/-! ### Refills (R123, R124, R136) -/

theorem Cursor.fillLoop_of_filled {c : Cursor} (h : c.fill ≤ 0) (dir : Dir) (src : Source) (n : Nat) :
    c.fillLoop dir src n = c := by
  cases n with
  | zero => rfl
  | succ n => rw [Cursor.fillLoop, if_neg (by omega)]

/-- R136: where the loop ends, on a cursor of either direction. -/
theorem Cursor.fillLoop_fill (dir : Dir) (src : Source) (n : Nat) {c : Cursor} (h : c.fill ≤ 8 * (n : Int)) :
    (c.fillLoop dir src n).fill ≤ 0 ∧ (0 < c.fill → -7 ≤ (c.fillLoop dir src n).fill) := by
  induction n generalizing c with
  | zero => exact ⟨by simpa [Cursor.fillLoop] using h, fun hpos => by omega⟩
  | succ n ih =>
    by_cases hpos : 0 < c.fill
    · have hpull := Cursor.pull_fill (dir := dir) (src := src) hpos
      obtain ⟨hle, hge⟩ := ih (c := c.pull dir src) (by omega)
      rw [Cursor.fillLoop, if_pos hpos]
      refine ⟨hle, fun _ => ?_⟩
      by_cases hmore : 0 < (c.pull dir src).fill
      · exact hge hmore
      · rw [Cursor.fillLoop_of_filled (by omega)]
        omega
    · rw [Cursor.fillLoop_of_filled (by omega)]
      exact ⟨by omega, fun h => absurd h hpos⟩

/-- A pulled byte is put beside the bits that are there. -/
theorem Cursor.pull_window (dir : Dir) (src : Source) (c : Cursor) {i : Nat} (h : c.window.getLsbD i = true) :
    (c.pull dir src).window.getLsbD i = true := by
  cases dir <;> simp [Cursor.pull, h]

theorem Cursor.fillLoop_window (dir : Dir) (src : Source) (n : Nat) {c : Cursor} {i : Nat} (h : c.window.getLsbD i = true) :
    (c.fillLoop dir src n).window.getLsbD i = true := by
  induction n generalizing c with
  | zero => exact h
  | succ n ih =>
    rw [Cursor.fillLoop]
    split
    · exact ih (Cursor.pull_window dir src c h)
    · exact h

theorem Cursor.refillDir_ok {c : Cursor} (h : c.fill ≤ 24) (dir : Dir) (src : Source) :
    c.refillDir dir src = .ok (c.fillLoop dir src 3) := by
  rw [Cursor.refillDir, if_pos h]

theorem Cursor.refillDir_e54 {c : Cursor} (h : 24 < c.fill) (dir : Dir) (src : Source) :
    c.refillDir dir src = .error (.e54, c) := by
  rw [Cursor.refillDir, if_neg (by omega)]

/-- Bits shifted out of a refilled cursor can be refilled. -/
theorem Cursor.filled_drop_fill {c : Cursor} (h : c.fill ≤ 0) {n : Nat} (hn : n ≤ 24) : (c.drop n).fill ≤ 24 := by
  rw [Cursor.drop_fill (by omega)]
  omega

theorem Cursor.drop_zero (c : Cursor) : c.drop 0 = c := by
  simp [Cursor.drop]

/-! ### Initialisations (R121, R122) -/

/-- Three bytes put into an empty window one below the other. -/
theorem window_of_bytes (x y z : Byte) :
    (((0#32 ||| x.setWidth 32 <<< 24) ||| y.setWidth 32 <<< 16) ||| z.setWidth 32 <<< 8) = x ++ y ++ z ++ 0#8 := by
  have hx := x.isLt
  have hy := y.isLt
  have hz := z.isLt
  apply BitVec.eq_of_getLsbD_eq
  intro i hi
  simp only [BitVec.getLsbD_or, BitVec.getLsbD_shiftLeft, BitVec.getLsbD_setWidth, BitVec.getLsbD_append, BitVec.getLsbD_zero,
    Bool.false_or]
  by_cases h8 : i < 8
  · simp [h8, show i < 16 by omega, show i < 24 by omega]
  · by_cases h16 : i < 16
    · simp [h8, h16, hi, show i < 24 by omega, show i - 8 < 8 by omega, show i - 8 < 32 by omega]
    · by_cases h24 : i < 24
      · have hz' : z.getLsbD (i - 8) = false := BitVec.getLsbD_of_ge _ _ (by omega)
        simp [h8, h16, h24, hi, hz', show ¬ i - 8 < 8 by omega, show i - 16 < 8 by omega, show i - 16 < 32 by omega,
          show i - 8 - 8 = i - 16 by omega]
      · have hz' : z.getLsbD (i - 8) = false := BitVec.getLsbD_of_ge _ _ (by omega)
        have hy' : y.getLsbD (i - 16) = false := BitVec.getLsbD_of_ge _ _ (by omega)
        simp [h8, h16, h24, hi, hz', hy', show ¬ i - 8 < 8 by omega, show ¬ i - 8 - 8 < 8 by omega, show i - 24 < 32 by omega,
          show i - 8 - 8 - 8 = i - 24 by omega]

/-- R121, R122: an empty window takes three bytes. -/
theorem Cursor.fillLoop_empty {c : Cursor} (h : c.fill = 24) (dir : Dir) (src : Source) :
    c.fillLoop dir src 3 = ((c.pull dir src).pull dir src).pull dir src := by
  have h1 : (c.pull dir src).fill = 16 := by rw [Cursor.pull_fill (by omega)]; omega
  have h2 : ((c.pull dir src).pull dir src).fill = 8 := by rw [Cursor.pull_fill (by omega)]; omega
  simp only [Cursor.fillLoop, h, h1, h2, Int.reduceLT, if_true]

theorem Cursor.initFwd_eq (src : Source) (lo hi : Nat) :
    Cursor.initFwd src lo hi =
      let c : Cursor := { window := 0, fillLevel := 0, pos := lo + 3, lo := lo, hi := hi, dir := .fwd }
      { c with window := c.byteAt src lo ++ c.byteAt src (lo + 1) ++ c.byteAt src (lo + 2) ++ 0#8 } := by
  dsimp only
  rw [← window_of_bytes, show (lo : Int) + 2 = lo + 1 + 1 by omega, show (lo : Int) + 3 = lo + 1 + 1 + 1 by omega,
    Cursor.initFwd, Cursor.fillLoop_empty rfl]
  simp [Cursor.pull, Cursor.fill, Cursor.byteAt]

theorem Cursor.initBwd_eq (src : Source) (lo hi : Nat) :
    Cursor.initBwd src lo hi =
      let c : Cursor := { window := 0, fillLevel := 0, pos := hi - 3, lo := lo, hi := hi, dir := .bwd }
      { c with window := c.byteAt src (hi - 1) ++ c.byteAt src (hi - 2) ++ c.byteAt src (hi - 3) ++ 0#8 } := by
  dsimp only
  rw [← window_of_bytes, show (hi : Int) - 2 = hi - 1 - 1 by omega, show (hi : Int) - 3 = hi - 1 - 1 - 1 by omega,
    Cursor.initBwd, Cursor.fillLoop_empty rfl]
  simp [Cursor.pull, Cursor.fill, Cursor.byteAt]

/-! ### An operation on a cursor register, as the whole of a computation -/

section OnCursor

variable {α : Type} {c : CSel} {f : Source → Cursor → Except (Cause × Cursor) (α × Cursor)} {s : State} {v : Cursor}

theorem settle_onCursor_ok {x : α} (k : α → Eng Unit) (h : f s.source (s.cursor c) = .ok (x, v)) :
    settle (do let r ← onCursor c f; k r) s = settle (k x) (s.setCursor c v) :=
  settle_of_run_eq (Eng.bind_ok (onCursor_ok h))

/-- R120, R341: what the operation wrote before its fault stays. -/
theorem settle_onCursor_raise (k : α → Eng Unit) (h : f s.source (s.cursor c) = .error (.e54, v)) :
    ∃ t, settle (do let r ← onCursor c f; k r) s = .next t ∧ FaultTaken 6 54 (s.setCursor c v) t :=
  faultTaken_of_raise rfl (Eng.bind_error (onCursor_raise h)) (by decide)

/-- A fault of an operation that wrote nothing. -/
theorem settle_onCursor_unchanged (k : α → Eng Unit) (h : f s.source (s.cursor c) = .error (.e54, s.cursor c)) :
    ∃ t, settle (do let r ← onCursor c f; k r) s = .next t ∧ FaultTaken 6 54 s t := by
  have hraise := settle_onCursor_raise k h
  rwa [State.setCursor_self] at hraise

end OnCursor

theorem settle_setResult (ok : Bool) (x : Int) (s : State) : settle (setResult ok x) s = .next (s.setRes ok x) := rfl

/-! ### Initialisations and refills as instructions -/

/-- Settles O46: three bytes pulled into an empty window; a refill by its loop. -/
theorem cursorInitAndRefill : Obligations.CursorInitAndRefill := by
  refine ⟨fun s c lo hi => ?init, fun s c i dir hi => ?refill⟩
  case init =>
    intro byte
    exact ⟨congrArg (fun v => Host.Outcome.next (s.setCursor c v)) (Cursor.initFwd_eq s.source lo hi),
      congrArg (fun v => Host.Outcome.next (s.setCursor c v)) (Cursor.initBwd_eq s.source lo hi)⟩
  case refill =>
    have hexec : exec i s = settle (refillCursor c dir) s := by
      rcases hi with ⟨rfl, rfl⟩ | ⟨rfl, rfl⟩ <;> rfl
    refine ⟨fun hfill => ?_, fun hfill => faults_of_raise hexec (refillCursor_raise hfill) (by decide)⟩
    obtain ⟨hle, hge⟩ := Cursor.fillLoop_fill dir s.source 3 (c := s.cursor c) (by omega)
    refine ⟨_, hexec.trans (settle_ok (refillCursor_ok hfill)), hle, hge, fun hfilled => ?_, fun hsound hdir => ?_⟩
    · exact Cursor.fillLoop_of_filled hfilled ..
    · rw [← hdir]
      exact (Cursor.refillDir_spec hsound).2

/-! ### Fixed-width reads (R125 to R127) -/

theorem Cursor.readBits_ok {c : Cursor} {n : Nat} (h1 : 1 ≤ n) (h24 : n ≤ 24) (hvalid : (n : Int) ≤ i32 (24 - c.fill)) :
    c.readBits n = .ok (c.window >>> (32 - n), c.drop n) := by
  rw [← Cursor.room_i32] at hvalid
  rw [Cursor.readBits, if_pos ⟨h1, h24, hvalid⟩]

theorem Cursor.readBits_e54 {c : Cursor} {n : Nat} (h : ¬(1 ≤ n ∧ n ≤ 24 ∧ (n : Int) ≤ i32 (24 - c.fill))) :
    c.readBits n = .error (.e54, c) := by
  rw [← Cursor.room_i32] at h
  rw [Cursor.readBits, if_neg h]

theorem Cursor.readBitsZero_zero (c : Cursor) : c.readBitsZero 0 = .ok (0, c) := rfl

theorem Cursor.readBitsZero_pos {c : Cursor} {n : Nat} (h : n ≠ 0) : c.readBitsZero n = c.readBits n := by
  rw [Cursor.readBitsZero, if_neg h]

/-- The valid bits of a cursor whose fill level is not far below 0, as the `i32` of R6. -/
theorem i32_of_fill {x : Int} (h : -2147483623 ≤ x) (h' : x ≤ 24) : i32 (24 - x) = 24 - x :=
  Int.bmod_eq_of_le (by omega) (by omega)

/-- A fill level so low that `24 - fill` wraps leaves no valid bits. -/
theorem i32_wraps {c : Cursor} (h : c.fill < -2147483623) : i32 (24 - c.fill) < 0 := by
  have hmin := (Cursor.fill_range c).1
  have hwrap : i32 (24 - c.fill) = i32 (24 - c.fill - 4294967296) := (Int.sub_bmod_right ..).symm
  have hsmall : i32 (24 - c.fill - 4294967296) = 24 - c.fill - 4294967296 := Int.bmod_eq_of_le (by omega) (by omega)
  omega

theorem Cursor.readBit_ok {c v : Cursor} {src : Source} (hrefill : c.refillDir .fwd src = .ok v)
    (hvalid : 1 ≤ i32 (24 - v.fill)) : c.readBit src = .ok (v.window >>> 31, v.drop 1) := by
  rw [Cursor.readBit_eq, hrefill]
  exact Cursor.readBits_ok (by omega) (by omega) hvalid

/-- R127: `read_bit` where the cursor can be refilled and holds a bit then. -/
theorem Cursor.readBit_of_fill {c : Cursor} (src : Source) (hlow : -2147483623 ≤ c.fill) (hfill : c.fill ≤ 24) :
    ∃ v, c.refillDir .fwd src = .ok v ∧ c.readBit src = .ok (v.window >>> 31, v.drop 1) := by
  obtain ⟨hle, hge⟩ := Cursor.fillLoop_fill .fwd src 3 (c := c) (by omega)
  refine ⟨_, Cursor.refillDir_ok hfill .fwd src, Cursor.readBit_ok (Cursor.refillDir_ok hfill .fwd src) ?_⟩
  have hlow' : -2147483623 ≤ (c.fillLoop .fwd src 3).fill := by
    by_cases hpos : 0 < c.fill
    · have := hge hpos
      omega
    · rwa [Cursor.fillLoop_of_filled (by omega)]
  rw [i32_of_fill hlow' (by omega)]
  omega

theorem Cursor.readBit_e54 {c : Cursor} (src : Source) (h : c.fill < -2147483623 ∨ 24 < c.fill) :
    c.readBit src = .error (.e54, c) := by
  rw [Cursor.readBit_eq]
  rcases h with hlow | hhigh
  · have hwrap := i32_wraps hlow
    rw [Cursor.refillDir_ok (by omega), Cursor.fillLoop_of_filled (by omega)]
    exact Cursor.readBits_e54 fun h => by omega
  · rw [Cursor.refillDir_e54 hhigh]
    rfl

/-- Settles O47: each read by the valid bits. -/
theorem cursorFixedReads : Obligations.CursorFixedReads := by
  intro s c n v valid
  refine ⟨fun h1 h24 hvalid => ⟨?_, ?_⟩, fun hbad => ⟨?_, fun hn => ?_⟩, ?_, fun hvalid => ?_, fun hvalid => ?_,
    fun hlow hfill => ?_, fun hbad => ?_⟩
  · exact settle_onCursor_ok _ (Cursor.readBits_ok h1 h24 hvalid)
  · exact settle_onCursor_ok _ ((Cursor.readBitsZero_pos (by omega)).trans (Cursor.readBits_ok h1 h24 hvalid))
  · exact settle_onCursor_unchanged _ (Cursor.readBits_e54 hbad)
  · exact settle_onCursor_unchanged _ ((Cursor.readBitsZero_pos hn).trans (Cursor.readBits_e54 hbad))
  · have hrun := settle_onCursor_ok (fun v : Word => setResult true v.toNat) (Cursor.readBitsZero_zero (s.cursor c))
      (f := fun _ v => v.readBitsZero 0)
    rwa [State.setCursor_self] at hrun
  · exact settle_onCursor_ok _ (Cursor.readBits_ok (n := 1) (by omega) (by omega) hvalid)
  · exact settle_onCursor_unchanged _ (Cursor.readBits_e54 (n := 1) fun h => Int.not_lt.2 h.2.2 hvalid)
  · obtain ⟨v', hrefill, hread⟩ := Cursor.readBit_of_fill s.source hlow hfill
    exact ⟨v', hrefill, settle_onCursor_ok _ hread⟩
  · exact settle_onCursor_unchanged _ (Cursor.readBit_e54 s.source hbad)

/-! ### read_gamma and consumed_pos (R128, R135) -/

theorem Cursor.readGamma_of_width {c : Cursor} {width : Nat} (hwidth : width = 2 * clz32 c.window + 2) (hlt : width < 24)
    (hvalid : (width : Int) ≤ i32 (24 - c.fill)) :
    c.readGamma = .ok (c.window.toNat / 2 ^ (32 - width) - 2, c.drop width) := by
  rw [Cursor.readGamma, params_leadingZeros, params_gammaWidth, ← hwidth, if_pos hlt,
    Cursor.readBits_ok (by omega) (by omega) hvalid]
  simp only [bind, Except.bind, pure, Except.pure, BitVec.toNat_ushiftRight, Nat.shiftRight_eq_div_pow]

theorem Cursor.readGamma_e54 {c : Cursor} {width : Nat} (hwidth : width = 2 * clz32 c.window + 2)
    (h : ¬(width < 24 ∧ (width : Int) ≤ i32 (24 - c.fill))) : c.readGamma = .error (.e54, c) := by
  rw [Cursor.readGamma, params_leadingZeros, params_gammaWidth, ← hwidth]
  by_cases hlt : width < 24
  · rw [if_pos hlt, Cursor.readBits_e54 fun hread => h ⟨hlt, hread.2.2⟩]
    rfl
  · rw [if_neg hlt]
    rfl

/-- Settles O48: the width against the valid bits; the position by direction. -/
theorem cursorGammaAndPosition : Obligations.CursorGammaAndPosition := by
  intro s c v width valid
  refine ⟨fun hlt hvalid => settle_onCursor_ok _ (Cursor.readGamma_of_width rfl hlt hvalid),
    fun hbad => settle_onCursor_unchanged _ (Cursor.readGamma_e54 rfl hbad), fun hdir => ?_, fun hdir => ?_⟩
  · have hpos : (s.cursor c).consumedPos = v.pos - valid / 8 := by
      rw [Cursor.consumedPos, hdir, params_consumedAt_fwd, Cursor.room_i32]
    exact congrArg (fun x => Host.Outcome.next (s.setRes true x)) hpos
  · have hpos : (s.cursor c).consumedPos = v.pos + valid / 8 := by
      rw [Cursor.consumedPos, hdir, params_consumedAt_bwd, Cursor.room_i32]
    exact congrArg (fun x => Host.Outcome.next (s.setRes true x)) hpos

/-! ### read_distance (R129, R130) -/

theorem Cursor.topBits_lt (c : Cursor) {n : Nat} (hn : n ≤ 32) : c.window.toNat / 2 ^ (32 - n) < 2 ^ n := by
  rw [Nat.div_lt_iff_lt_mul (Nat.two_pow_pos _), ← Nat.pow_add, Nat.add_sub_cancel' hn]
  exact c.window.isLt

/-- R129: the value of a small distance, whose subtraction is exact. -/
theorem distanceSmall_eq {n q : Nat} (cb : Byte) (h4 : 4 ≤ n) (h18 : n ≤ 18) (_ : q < 2 ^ n) :
    params.distanceSmall (BitVec.ofNat 32 (2 ^ n + q)) cb = BitVec.ofNat 32 ((2 ^ n + q) * 16 + cb.toNat % 16 - 248) := by
  have hge : 2 ^ 4 ≤ 2 ^ n := Nat.pow_le_pow_right (by omega) h4
  have hle : 2 ^ n ≤ 2 ^ 18 := Nat.pow_le_pow_right (by omega) h18
  have hand : cb.toNat &&& 15 = cb.toNat % 16 := Nat.and_two_pow_sub_one_eq_mod cb.toNat 4
  apply BitVec.eq_of_toNat_eq
  rw [params_distanceSmall, BitVec.toNat_sub, BitVec.toNat_add, BitVec.toNat_shiftLeft, BitVec.toNat_setWidth,
    BitVec.toNat_and, show BitVec.toNat (15#8) = 15 from rfl, hand, Nat.shiftLeft_eq, BitVec.toNat_ofNat,
    BitVec.toNat_ofNat, show BitVec.toNat (248 : Word) = 248 from rfl]
  omega

/-- R129: the value of a large distance, modulo 2^32. -/
theorem distanceLarge_eq (field : Nat) (low : Word) :
    params.distanceLarge (BitVec.ofNat 32 field) low = BitVec.ofNat 32 (8322816 + field * 4096 + low.toNat) := by
  apply BitVec.eq_of_toNat_eq
  rw [params_distanceLarge, BitVec.toNat_add, BitVec.toNat_add, BitVec.toNat_shiftLeft, Nat.shiftLeft_eq, BitVec.toNat_ofNat,
    BitVec.toNat_ofNat, show BitVec.toNat ((8322816 : Nat) : Word) = 8322816 from rfl]
  omega

theorem distanceBits_small {cb : Byte} (h : cb.toNat < 0xF0) : distanceBits cb = cb.toNat / 16 + 4 := if_pos h

theorem distanceBits_large {cb : Byte} (h : 0xF0 ≤ cb.toNat) : distanceBits cb = cb.toNat - 0xF0 + 4 :=
  if_neg (Nat.not_lt.2 h)

/-- R129, R130: a small distance, whatever the bits are. -/
theorem Cursor.readDistance_below {c : Cursor} {cb : Byte} {n : Nat} (dir : Dir) (src : Source) (h : c.filled)
    (hcb : cb.toNat < 0xF0) (hn : n = cb.toNat / 16 + 4) :
    ∃ v, (c.drop n).refillDir dir src = .ok v ∧ c.readDistance dir src cb =
      .ok (BitVec.ofNat 32 ((2 ^ n + c.window.toNat / 2 ^ (32 - n)) * 16 + cb.toNat % 16 - 248), v) := by
  have hrefill := Cursor.refillDir_ok (Cursor.filled_drop_fill h.2 (n := n) (by omega)) dir src
  have hhead := Cursor.distanceHead_eq (Cursor.sound_lowBit h.1) (n := n) (by omega) (by omega)
  have hvalue := distanceSmall_eq cb (n := n) (by omega) (by omega) (c.topBits_lt (by omega))
  refine ⟨_, hrefill, ?_⟩
  simp only [Cursor.readDistance, distanceBits_small hcb, ← hn, hhead, if_pos hcb, hvalue, params_distanceRefills, if_true,
    hrefill, bind, Except.bind, pure, Except.pure]

/-- R129, R130: a large distance, whatever the bits are. -/
theorem Cursor.readDistance_above {c : Cursor} {cb : Byte} {n : Nat} (dir : Dir) (src : Source) (h : c.filled)
    (hcb : 0xF0 ≤ cb.toNat) (hn : n = cb.toNat - 0xF0 + 4) :
    ∃ w v, (c.drop n).refillDir dir src = .ok w ∧ (w.drop 12).refillDir dir src = .ok v ∧ c.readDistance dir src cb =
      .ok (BitVec.ofNat 32 (8322816 + (2 ^ n + c.window.toNat / 2 ^ (32 - n)) * 4096 + w.window.toNat / 2 ^ 20), v) := by
  have hlt := cb.isLt
  have hfill := Cursor.filled_drop_fill h.2 (n := n) (by omega)
  have hrefill := Cursor.refillDir_ok hfill dir src
  obtain ⟨hle, -⟩ := Cursor.fillLoop_fill dir src 3 (c := c.drop n) (by omega)
  have hrefill' := Cursor.refillDir_ok (Cursor.filled_drop_fill hle (n := 12) (by omega)) dir src
  have hhead := Cursor.distanceHead_eq (Cursor.sound_lowBit h.1) (n := n) (by omega) (by omega)
  refine ⟨_, _, hrefill, hrefill', ?_⟩
  simp only [Cursor.readDistance, distanceBits_large hcb, ← hn, hhead, if_neg (Nat.not_lt.2 hcb), hrefill, distanceLarge_eq,
    params_distanceRefills, if_true, hrefill', bind, Except.bind, pure, Except.pure, BitVec.toNat_ushiftRight,
    Nat.shiftRight_eq_div_pow]

/-- R123, R129: the first bits taken leave the fill level above 24. -/
theorem Cursor.readDistance_e54 {c v : Cursor} {cb : Byte} (dir : Dir) (src : Source)
    (hv : (c.distanceHead (distanceBits cb)).2 = v) (h : 24 < v.fill) : c.readDistance dir src cb = .error (.e54, v) := by
  subst hv
  have hrefill := Cursor.refillDir_e54 h dir src
  by_cases hcb : cb.toNat < 0xF0
  · simp only [Cursor.readDistance, if_pos hcb, params_distanceRefills, if_true, hrefill, bind, Except.bind]
  · simp only [Cursor.readDistance, if_neg hcb, hrefill, bind, Except.bind]

/-- Settles O49: the rotated window is the bits taken and the window shifted left. -/
theorem cursorDistance : Obligations.CursorDistance := by
  intro s c cb i dir hi v field
  have hexec : exec i s = settle (do let v ← onCursor c (fun src v => v.readDistance dir src cb); setResult true v.toNat) s := by
    rcases hi with ⟨rfl, rfl⟩ | ⟨rfl, rfl⟩ <;> rfl
  refine ⟨fun n hfilled hcb hn => ?small, fun n hfilled hcb hn => ?large, fun n hn => ?fault⟩
  case small =>
    obtain ⟨v', hrefill, hread⟩ := Cursor.readDistance_below dir s.source hfilled hcb hn
    refine ⟨v', hrefill, hexec.trans ((settle_onCursor_ok _ hread).trans ?_)⟩
    have htop := v.topBits_lt (n := n) (by omega)
    have hle : 2 ^ n ≤ 2 ^ 18 := Nat.pow_le_pow_right (by omega) (by omega)
    rw [settle_setResult, BitVec.toNat_ofNat, Nat.mod_eq_of_lt (by omega)]
  case large =>
    obtain ⟨w, v', hrefill, hrefill', hread⟩ := Cursor.readDistance_above dir s.source hfilled hcb hn
    refine ⟨w, v', hrefill, hrefill', hexec.trans ((settle_onCursor_ok _ hread).trans ?_)⟩
    rw [settle_setResult, BitVec.toNat_ofNat]
  case fault =>
    intro v' hfill
    have hbits : distanceBits cb = n := hn.symm
    rw [hexec]
    exact settle_onCursor_raise _ (Cursor.readDistance_e54 dir s.source (by rw [hbits]; rfl) hfill)

/-! ### read_length (R131, R132) -/

theorem Cursor.readLength_illegal {c : Cursor} (dir : Dir) (src : Source) (h : 12 < clz32 c.window) :
    c.readLength dir src = .ok ((false, 0), c) := by
  simp only [Cursor.readLength, params_leadingZeros, params_lengthMaxZeros]
  exact if_pos h

theorem clz32_le_of_lt {v : Word} {n : Nat} (hn : n ≤ 32) (h : v.toNat < 2 ^ (32 - n)) : n ≤ clz32 v := by
  rw [clz32]
  split
  · exact hn
  next hne =>
    have hpos : v.toNat ≠ 0 := fun h0 => hne (BitVec.eq_of_toNat_eq h0)
    have hlog : v.toNat.log2 < 32 - n := (Nat.log2_lt hpos).2 h
    omega

/-- The window's top bit after its leading zeros. -/
theorem getLsbD_of_clz32 {v : Word} (h : clz32 v < 32) : v.getLsbD (31 - clz32 v) = true := by
  have hne : v ≠ 0 := fun h0 => by rw [clz32, if_pos h0] at h; omega
  have hpos : v.toNat ≠ 0 := fun h0 => hne (BitVec.eq_of_toNat_eq h0)
  have hlog : v.toNat.log2 < 32 := (Nat.log2_lt hpos).2 v.isLt
  rw [clz32, if_neg hne, show 31 - (31 - v.toNat.log2) = v.toNat.log2 by omega]
  exact Nat.testBit_log2 hpos

/-- The one bit of a length code stands at the top of the window that its zeros were shifted out of. -/
theorem Cursor.two_pow_le_of_clz32 {c : Cursor} {n : Nat} (dir : Dir) (src : Source) (hn : n = clz32 c.window) (hlt : n < 32) :
    2 ^ 31 ≤ ((c.drop n).fillLoop dir src 3).window.toNat := by
  apply Nat.ge_two_pow_of_testBit
  apply Cursor.fillLoop_window
  have hone := getLsbD_of_clz32 (v := c.window) (by omega)
  rw [← hn] at hone
  rw [Cursor.drop_window, BitVec.getLsbD_shiftLeft, hone]
  simp
  omega

/-- R131, R132: a legal code, whatever the bits are. -/
theorem Cursor.readLength_legal {c : Cursor} {n : Nat} (dir : Dir) (src : Source) (h : c.filled) (hn : n = clz32 c.window)
    (h12 : n ≤ 12) :
    ∃ w v, (c.drop n).refillDir dir src = .ok w ∧ (w.drop (n + 7)).refillDir dir src = .ok v ∧
      c.readLength dir src = .ok ((true, BitVec.ofNat 32 (w.window.toNat / 2 ^ (25 - n) - 64)), v) := by
  have hfill := Cursor.filled_drop_fill h.2 (n := n) (by omega)
  have hrefill := Cursor.refillDir_ok hfill dir src
  obtain ⟨hle, -⟩ := Cursor.fillLoop_fill dir src 3 (c := c.drop n) (by omega)
  have hrefill' := Cursor.refillDir_ok (Cursor.filled_drop_fill hle (n := n + 7) (by omega)) dir src
  have htop := Cursor.two_pow_le_of_clz32 dir src hn (by omega)
  generalize (c.drop n).fillLoop dir src 3 = w at *
  refine ⟨w, _, hrefill, hrefill', ?_⟩
  have hge : 64 ≤ w.window.toNat / 2 ^ (25 - n) := by
    rw [Nat.le_div_iff_mul_le (Nat.two_pow_pos _)]
    calc 64 * 2 ^ (25 - n) = 2 ^ (31 - n) := by rw [show (64 : Nat) = 2 ^ 6 by rfl, ← Nat.pow_add]; congr 1; omega
      _ ≤ 2 ^ 31 := Nat.pow_le_pow_right (by omega) (by omega)
      _ ≤ _ := htop
  have hvalue : w.window >>> (32 - (n + 7)) - 64 = BitVec.ofNat 32 (w.window.toNat / 2 ^ (25 - n) - 64) := by
    have hlt : w.window.toNat / 2 ^ (25 - n) ≤ w.window.toNat := Nat.div_le_self ..
    have hwindow := w.window.isLt
    apply BitVec.eq_of_toNat_eq
    rw [BitVec.toNat_sub, BitVec.toNat_ushiftRight, Nat.shiftRight_eq_div_pow, show 32 - (n + 7) = 25 - n by omega,
      BitVec.toNat_ofNat, show BitVec.toNat (64 : Word) = 64 from rfl]
    omega
  simp only [Cursor.readLength, params_leadingZeros, ← hn, params_lengthMaxZeros, if_neg (Nat.not_lt.2 h12), hrefill,
    params_lengthExtra, params_lengthBias, hvalue, hrefill', bind, Except.bind, pure, Except.pure]

theorem Cursor.readLength_e54 {c : Cursor} {n : Nat} (dir : Dir) (src : Source) (hn : n = clz32 c.window) (h12 : n ≤ 12)
    (h : 24 < (c.drop n).fill) : c.readLength dir src = .error (.e54, c.drop n) := by
  simp only [Cursor.readLength, params_leadingZeros, ← hn, params_lengthMaxZeros, if_neg (Nat.not_lt.2 h12),
    Cursor.refillDir_e54 h, bind, Except.bind]

/-! ### read_more_than_24_bits (R133, R134) -/

theorem Cursor.filled_valid {c : Cursor} (h : c.filled) {n : Nat} (hn : n ≤ 24) : (n : Int) ≤ i32 (24 - c.fill) := by
  obtain ⟨⟨hlow, -⟩, hfill⟩ := h
  rw [i32_of_fill (by omega) (by omega)]
  omega

theorem Cursor.readMoreThan24_small {c : Cursor} {k : Nat} (dir : Dir) (src : Source) (h : c.filled) (hk : k ≤ 24) :
    ∃ v, (c.drop k).refillDir dir src = .ok v ∧
      c.readMoreThan24 dir src k = .ok (BitVec.ofNat 32 (c.window.toNat / 2 ^ (32 - k)), v) := by
  have hrefill := Cursor.refillDir_ok (Cursor.filled_drop_fill h.2 hk) dir src
  have hread : c.readBitsZero k = .ok (BitVec.ofNat 32 (c.window.toNat / 2 ^ (32 - k)), c.drop k) := by
    by_cases hzero : k = 0
    · subst hzero
      rw [Cursor.readBitsZero_zero, Cursor.drop_zero, Nat.div_eq_of_lt c.window.isLt]
      rfl
    · rw [Cursor.readBitsZero_pos hzero, Cursor.readBits_ok (by omega) hk (Cursor.filled_valid h hk)]
      congr 2
      apply BitVec.eq_of_toNat_eq
      have hle : c.window.toNat / 2 ^ (32 - k) ≤ c.window.toNat := Nat.div_le_self ..
      have hwindow := c.window.isLt
      rw [BitVec.toNat_ushiftRight, Nat.shiftRight_eq_div_pow, BitVec.toNat_ofNat, Nat.mod_eq_of_lt (by omega)]
  refine ⟨_, hrefill, ?_⟩
  simp only [Cursor.readMoreThan24, if_pos hk, hread, hrefill, bind, Except.bind, pure, Except.pure]

theorem Cursor.readMoreThan24_large {c : Cursor} {k : Nat} (dir : Dir) (src : Source) (h : c.filled) (hk : 24 < k)
    (hk' : k ≤ 26) :
    ∃ w v, (c.drop 24).refillDir dir src = .ok w ∧ (w.drop (k - 24)).refillDir dir src = .ok v ∧
      c.readMoreThan24 dir src k =
        .ok (BitVec.ofNat 32 (c.window.toNat / 2 ^ 8 * 2 ^ (k - 24) + w.window.toNat / 2 ^ (56 - k)), v) := by
  have hfill := Cursor.filled_drop_fill h.2 (n := 24) (by omega)
  have hrefill := Cursor.refillDir_ok hfill dir src
  obtain ⟨hle, hge⟩ := Cursor.fillLoop_fill dir src 3 (c := c.drop 24) (by omega)
  have hlow : -7 ≤ ((c.drop 24).fillLoop dir src 3).fill := by
    have hdrop : (c.drop 24).fill = c.fill + 24 := Cursor.drop_fill (by have := h.2; omega)
    have hsound := h.1.1
    exact hge (by omega)
  generalize (c.drop 24).fillLoop dir src 3 = w at *
  have hrefill' := Cursor.refillDir_ok (Cursor.filled_drop_fill hle (n := k - 24) (by omega)) dir src
  have hhigh := Cursor.readBits_ok (n := 24) (by omega) (by omega) (Cursor.filled_valid h (n := 24) (by omega))
  have hrest : w.readBits (k - 24) = .ok (w.window >>> (32 - (k - 24)), w.drop (k - 24)) :=
    Cursor.readBits_ok (by omega) (by omega) (by rw [i32_of_fill (by omega) (by omega)]; omega)
  have hvalue : (c.window >>> (32 - 24)) <<< (k - 24) + w.window >>> (32 - (k - 24)) =
      BitVec.ofNat 32 (c.window.toNat / 2 ^ 8 * 2 ^ (k - 24) + w.window.toNat / 2 ^ (56 - k)) := by
    apply BitVec.eq_of_toNat_eq
    rw [BitVec.toNat_add, BitVec.toNat_shiftLeft, BitVec.toNat_ushiftRight, BitVec.toNat_ushiftRight, BitVec.toNat_ofNat,
      Nat.shiftLeft_eq, Nat.shiftRight_eq_div_pow, Nat.shiftRight_eq_div_pow, show 32 - (k - 24) = 56 - k by omega,
      Nat.mod_add_mod]
  refine ⟨w, _, hrefill, hrefill', ?_⟩
  simp only [Cursor.readMoreThan24, if_neg (Nat.not_le.2 hk), params_wideSplit, hhigh, hrefill, hrest, hrefill', hvalue, bind,
    Except.bind, pure, Except.pure]

theorem Cursor.readMoreThan24_e54 {c : Cursor} {k : Nat} (dir : Dir) (src : Source) (h1 : 1 ≤ k) (h24 : k ≤ 24)
    (h : i32 (24 - c.fill) < (k : Int)) : c.readMoreThan24 dir src k = .error (.e54, c) := by
  have hread : c.readBitsZero k = .error (.e54, c) :=
    (Cursor.readBitsZero_pos (by omega)).trans (Cursor.readBits_e54 fun hread => by omega)
  simp only [Cursor.readMoreThan24, if_pos h24, hread, bind, Except.bind]

/-- Settles O50: the leading zeros, or the width, decide. -/
theorem cursorLengthAndWide : Obligations.CursorLengthAndWide := by
  intro s c k len wide dir hi v n
  have hlen : exec len s = settle (do let v ← onCursor c (fun src v => v.readLength dir src); setResult v.1 v.2.toNat) s := by
    rcases hi with ⟨rfl, -, rfl⟩ | ⟨rfl, -, rfl⟩ <;> rfl
  have hwide : exec wide s =
      settle (do let v ← onCursor c (fun src v => v.readMoreThan24 dir src k); setResult true v.toNat) s := by
    rcases hi with ⟨-, rfl, rfl⟩ | ⟨-, rfl, rfl⟩ <;> rfl
  have hwindow := v.window.isLt
  refine ⟨fun hn => ?illegal, fun hfilled hn => ?legal, fun hn hfill => ?lengthFault, fun hfilled hk => ?small,
    fun hfilled hk hk' => ?large, fun h1 h24 hvalid => ?wideFault⟩
  case illegal =>
    have hrun := settle_onCursor_ok (fun v : Bool × Word => setResult v.1 v.2.toNat)
      (f := fun src v => v.readLength dir src) (Cursor.readLength_illegal dir s.source hn)
    rw [State.setCursor_self] at hrun
    exact hlen.trans hrun
  case legal =>
    obtain ⟨w, v', hrefill, hrefill', hread⟩ := Cursor.readLength_legal dir s.source hfilled rfl hn
    refine ⟨w, v', hrefill, hrefill', hlen.trans ((settle_onCursor_ok _ hread).trans ?_)⟩
    have hw := w.window.isLt
    have hdiv : w.window.toNat / 2 ^ (25 - n) ≤ w.window.toNat := Nat.div_le_self ..
    rw [settle_setResult, BitVec.toNat_ofNat, Nat.mod_eq_of_lt (Nat.lt_of_le_of_lt (Nat.sub_le _ 64) (Nat.lt_of_le_of_lt hdiv hw))]
  case lengthFault =>
    rw [hlen]
    exact settle_onCursor_raise _ (Cursor.readLength_e54 dir s.source rfl hn hfill)
  case small =>
    obtain ⟨v', hrefill, hread⟩ := Cursor.readMoreThan24_small dir s.source hfilled hk
    refine ⟨v', hrefill, hwide.trans ((settle_onCursor_ok _ hread).trans ?_)⟩
    have hdiv : v.window.toNat / 2 ^ (32 - k) ≤ v.window.toNat := Nat.div_le_self ..
    rw [settle_setResult, BitVec.toNat_ofNat, Nat.mod_eq_of_lt (by omega)]
  case large =>
    obtain ⟨w, v', hrefill, hrefill', hread⟩ := Cursor.readMoreThan24_large dir s.source hfilled hk hk'
    refine ⟨w, v', hrefill, hrefill', hwide.trans ((settle_onCursor_ok _ hread).trans ?_)⟩
    have hhigh := v.topBits_lt (n := 24) (by omega)
    have hlow := w.topBits_lt (n := k - 24) (by omega)
    rw [show 32 - (k - 24) = 56 - k by omega] at hlow
    have hpow : 2 ^ (k - 24) ≤ 2 ^ 2 := Nat.pow_le_pow_right (by omega) (by omega)
    have hmul : v.window.toNat / 2 ^ 8 * 2 ^ (k - 24) ≤ 2 ^ 24 * 2 ^ 2 := Nat.mul_le_mul (Nat.le_of_lt hhigh) hpow
    rw [settle_setResult, BitVec.toNat_ofNat, Nat.mod_eq_of_lt (by omega)]
  case wideFault =>
    rw [Faults, hwide]
    exact settle_onCursor_unchanged _ (Cursor.readMoreThan24_e54 dir s.source h1 h24 hvalid)

end Sys2Proof.Machine
end

section
/-! The variable-length integer codes at a cursor that holds their bits (R100 to R105), and a scaled offset (R276): each runs the cursor
operation that reads it. -/

namespace Sys2Proof

/-- A field is its upper and its lower bits. -/
theorem bitsOfNat_add (m n v : Nat) : bitsOfNat (m + n) v = bitsOfNat m (v / 2 ^ n) ++ bitsOfNat n (v % 2 ^ n) := by
  apply List.ext_getElem?
  intro i
  rw [List.getElem?_append, bitsOfNat_length, bitsOfNat_getElem?, bitsOfNat_getElem?, bitsOfNat_getElem?]
  by_cases him : i < m
  · rw [if_pos (by omega), if_pos him, if_pos him, Nat.testBit_div_two_pow]
    congr 2
    omega
  · rw [if_neg him]
    by_cases hin : i < m + n
    · rw [if_pos hin, if_pos (by omega), Nat.testBit_mod_two_pow, decide_eq_true (by omega), Bool.true_and]
      congr 2
      omega
    · rw [if_neg hin, if_neg (by omega)]

namespace Machine

/-- R80: an element that stands at its cursor runs its computation. -/
theorem settle_atCursor {c : CSel} {i : Instr} {bits : Bits} {s : State} (m : Eng Unit) (hi : encode i = some bits)
    (hr : (s.cursor c).reads s.source bits) : settle (do atCursor c i params; m) s = settle m s :=
  settle_of_run_eq (Eng.bind_ok (atCursor_ok hi hr))

/-- R80: an element read by one cursor operation. -/
theorem settle_codeAt {α : Type} {c : CSel} {i : Instr} {bits : Bits} {s : State} {v : Cursor} {x : α}
    {f : Source → Cursor → Except (Cause × Cursor) (α × Cursor)} (k : α → Eng Unit) (hi : encode i = some bits)
    (hr : (s.cursor c).reads s.source bits) (hread : f s.source (s.cursor c) = .ok (x, v)) :
    settle (do atCursor c i params; let r ← onCursor c f; k r) s = settle (k x) (s.setCursor c v) :=
  (settle_atCursor _ hi hr).trans (settle_onCursor_ok k hread)

/-! ### The gamma code (R100, R128) -/

theorem wfCode_bound {n w b : Nat} (h : wfCode n w b = true) (hn : n < 32) : b < 2 ^ w := by
  rcases wfCode_iff.1 h with ⟨-, hb⟩ | ⟨h32, -⟩
  · exact hb
  · omega

/-- A code of `n` zeros or more shows that many in the window. -/
theorem Cursor.le_clz32_of_reads {src : Source} {c : Cursor} {k n w b : Nat} (h : c.sound) (hk : k ≤ n) (hk32 : k ≤ 32)
    (hv : k ≤ c.validBits) (hr : c.reads src (zerosOneBits n w b)) : k ≤ clz32 c.window := by
  obtain ⟨rest, hrest⟩ := zerosOneBits_eq_append hk hk32 w b
  rw [hrest] at hr
  have htop := Cursor.window_top h (n := k) hv (Nat.two_pow_pos k) hr
  refine clz32_le_of_lt hk32 ?_
  refine Decidable.byContradiction fun hge => ?_
  have hone : 1 ≤ c.window.toNat / 2 ^ (32 - k) := (Nat.one_le_div_iff (Nat.two_pow_pos _)).2 (Nat.le_of_not_lt hge)
  omega

theorem exec_gammaCode (s : State) (c : CSel) (n b : Nat) :
    exec (.gammaCode c n b) s = settle (do
      atCursor c (.gammaCode c n b) params
      let v ← onCursor c fun _ v => v.readGamma
      setResult true v) s := rfl

/-- Settles O38: the code is among the valid bits, or is too long. -/
theorem gammaCode : Obligations.GammaCode := by
  intro s c n b hfilled hwf hreads
  have h24 := Cursor.filled_validBits hfilled
  refine ⟨fun hn => ?_, fun hn => ?_⟩
  · have hread := Cursor.readGamma_ok hfilled.1 hn (by omega) (wfCode_bound hwf (by omega)) hreads
    rw [exec_gammaCode, settle_codeAt (fun v : Nat => setResult true v) rfl hreads hread, settle_setResult]
  · have hclz := Cursor.le_clz32_of_reads (k := 11) hfilled.1 hn (by omega) (by omega) hreads
    have hraise := Cursor.readGamma_e54 (c := s.cursor c) rfl fun h => by omega
    rw [Faults, exec_gammaCode, settle_atCursor _ rfl hreads]
    exact settle_onCursor_unchanged _ hraise

/-! ### The distance codes (R101, R102) -/

theorem exec_distanceSmall (s : State) (c : CSel) (cb : Byte) (x : Nat) :
    exec (.distanceSmall c cb x) s = settle (do
      atCursor c (.distanceSmall c cb x) params
      let v ← onCursor c fun src v => v.readDistance (selDir c) src cb
      setResult true v.toNat) s := rfl

theorem exec_distanceLarge (s : State) (c : CSel) (cb : Byte) (x : Nat) (y : BitVec 12) :
    exec (.distanceLarge c cb x y) s = settle (do
      atCursor c (.distanceLarge c cb x y) params
      let v ← onCursor c fun src v => v.readDistance (selDir c) src cb
      setResult true v.toNat) s := rfl

theorem encode_distanceSmall (c : CSel) {cb : Byte} (x : Nat) (h : cb.toNat < 0xF0) :
    encode (.distanceSmall c cb x) = some (bitsOfNat (cb.toNat / 16 + 4) x) := by
  rw [← distanceBits_small h]
  rfl

theorem encode_distanceLarge (c : CSel) {cb : Byte} (x : Nat) (y : BitVec 12) (h : 0xF0 ≤ cb.toNat) :
    encode (.distanceLarge c cb x y) = some (bitsOfNat (cb.toNat - 0xF0 + 4) x ++ bitsOf y) := by
  rw [← distanceBits_large h]
  rfl

/-- Settles O39: the bits read are those of the window, shifted out. -/
theorem distanceCodes : Obligations.DistanceCodes := by
  intro s c cb x hfilled hdir
  refine ⟨fun n hn hcb hx hreads => ?small, fun n y hn hcb hx hreads => ?large⟩
  case small =>
    obtain ⟨v, hread, hfull⟩ := Cursor.readDistance_small hfilled hcb hn hx hreads
    rw [hdir] at hread
    have hle : 2 ^ n ≤ 2 ^ 18 := Nat.pow_le_pow_right (by omega) (by omega)
    refine ⟨v, hfull, ?_⟩
    rw [exec_distanceSmall, settle_codeAt (fun v : Word => setResult true v.toNat)
      ((encode_distanceSmall c x hcb).trans (by rw [hn])) hreads hread, settle_setResult, BitVec.toNat_ofNat,
      Nat.mod_eq_of_lt (by omega)]
  case large =>
    obtain ⟨v, hread, hfull⟩ := Cursor.readDistance_large hfilled hcb hn hx hreads
    rw [hdir] at hread
    refine ⟨v, hfull, ?_⟩
    rw [exec_distanceLarge, settle_codeAt (fun v : Word => setResult true v.toNat)
      ((encode_distanceLarge c x y hcb).trans (by rw [hn])) hreads hread, settle_setResult, BitVec.toNat_ofNat]

/-! ### The length code (R103) -/

theorem exec_lengthCode (s : State) (c : CSel) (n b : Nat) :
    exec (.lengthCode c n b) s = settle (do
      atCursor c (.lengthCode c n b) params
      let v ← onCursor c fun src v => v.readLength (selDir c) src
      setResult v.1 v.2.toNat) s := rfl

/-- R103, R131: a legal length code is read whole. -/
theorem Cursor.readLength_ok {src : Source} {c : Cursor} {n b : Nat} (h : c.filled) (hn : n ≤ 12) (hb : b < 2 ^ (n + 6))
    (hr : c.reads src (zerosOneBits n (n + 6) b)) :
    ∃ v, c.readLength c.dir src = .ok ((true, BitVec.ofNat 32 (2 ^ (n + 6) + b - 64)), v) ∧
      c.AdvancedFull src (2 * n + 7) v := by
  have h24 := Cursor.filled_validBits h
  rw [zerosOneBits, if_pos (by omega)] at hr
  have hclz : clz32 c.window = n := Cursor.clz_window h.1 (by omega) hr
  obtain ⟨w, v, hw, hfull, hv, hfull'⟩ :=
    Cursor.drop_refill_twice (src := src) h.1 (m := n) (n := n + 7) (by omega) (by omega)
  obtain ⟨w', v', hw', hv', hread⟩ := Cursor.readLength_legal c.dir src h hclz.symm hn
  cases hw.symm.trans hw'
  cases hv.symm.trans hv'
  have hfield : w.window.toNat / 2 ^ (32 - (n + 7)) = 2 ^ (n + 6) + b := by
    have hr' := Cursor.reads_advanced hr (by simpa using hfull.1)
    rw [← bitsOfNat_topBit hb, ← List.append_nil (bitsOfNat _ _)] at hr'
    exact Cursor.window_top hfull.1.1 (by have := hfull.validBits; omega) (by rw [Nat.pow_succ 2 (n + 6)]; omega) hr'
  rw [show 25 - n = 32 - (n + 7) by omega, hfield] at hread
  exact ⟨v, hread, by rwa [show 2 * n + 7 = n + (n + 7) by omega]⟩

/-- Settles O40: the leading zeros are those of the code. -/
theorem lengthCode : Obligations.LengthCode := by
  intro s c n b hfilled hdir hwf hreads
  have h24 := Cursor.filled_validBits hfilled
  refine ⟨fun hn => ?_, fun hn => ?_⟩
  · have hb := wfCode_bound hwf (by omega)
    obtain ⟨v, hread, hfull⟩ := Cursor.readLength_ok hfilled hn hb hreads
    rw [hdir] at hread
    have hle : 2 ^ (n + 6) ≤ 2 ^ 18 := Nat.pow_le_pow_right (by omega) (by omega)
    refine ⟨v, hfull, ?_⟩
    rw [exec_lengthCode, settle_codeAt (fun v : Bool × Word => setResult v.1 v.2.toNat) rfl hreads hread, settle_setResult,
      BitVec.toNat_ofNat, Nat.mod_eq_of_lt (by omega)]
  · have hclz := Cursor.le_clz32_of_reads (k := 13) hfilled.1 hn (by omega) (by omega) hreads
    rw [exec_lengthCode, settle_codeAt (fun v : Bool × Word => setResult v.1 v.2.toNat)
      (f := fun src v => v.readLength (selDir c) src) rfl hreads (Cursor.readLength_illegal (selDir c) s.source hclz),
      State.setCursor_self]
    rfl

/-! ### Plain bits (R105, R133, R134) -/

theorem exec_moreThan24 (s : State) (c : CSel) (n b : Nat) :
    exec (.moreThan24 c n b) s = settle (do
      atCursor c (.moreThan24 c n b) params
      let v ← onCursor c fun src v => v.readMoreThan24 (selDir c) src n
      setResult true v.toNat) s := rfl

/-- R105: the bits read are the field. -/
theorem Cursor.readMoreThan24_ok {src : Source} {c : Cursor} {n b : Nat} (h : c.filled) (hn : n ≤ 26) (hb : b < 2 ^ n)
    (hr : c.reads src (bitsOfNat n b)) :
    ∃ v, c.readMoreThan24 c.dir src n = .ok (BitVec.ofNat 32 b, v) ∧ c.AdvancedFull src n v := by
  have h24 := Cursor.filled_validBits h
  by_cases hsmall : n ≤ 24
  · obtain ⟨v, hv, hread⟩ := Cursor.readMoreThan24_small c.dir src h hsmall
    obtain ⟨hv', hfull⟩ := Cursor.drop_refill_spec (src := src) h.1 (n := n) (by omega)
    cases hv.symm.trans hv'
    rw [Cursor.window_top h.1 (rest := []) (by omega) hb (by rwa [List.append_nil])] at hread
    exact ⟨_, hread, hfull⟩
  · obtain ⟨w, v, hw, hv, hread⟩ := Cursor.readMoreThan24_large c.dir src h (by omega) hn
    obtain ⟨w', v', hw', hfull, hv', hfull'⟩ :=
      Cursor.drop_refill_twice (src := src) h.1 (m := 24) (n := n - 24) (by omega) (by omega)
    cases hw.symm.trans hw'
    cases hv.symm.trans hv'
    have hsplit := bitsOfNat_add 24 (n - 24) b
    rw [Nat.add_sub_cancel' (by omega)] at hsplit
    rw [hsplit] at hr
    have hhigh : c.window.toNat / 2 ^ (32 - 24) = b / 2 ^ (n - 24) := by
      refine Cursor.window_top h.1 (by omega) ?_ hr
      rw [Nat.div_lt_iff_lt_mul (Nat.two_pow_pos _), ← Nat.pow_add, Nat.add_sub_cancel' (by omega)]
      exact hb
    have hlow : w.window.toNat / 2 ^ (32 - (n - 24)) = b % 2 ^ (n - 24) := by
      have hr' := Cursor.reads_advanced hr (by simpa using hfull.1)
      rw [← List.append_nil (bitsOfNat (n - 24) _)] at hr'
      exact Cursor.window_top hfull.1.1 (by have := hfull.validBits; omega) (Nat.mod_lt _ (Nat.two_pow_pos _)) hr'
    rw [show 56 - n = 32 - (n - 24) by omega, hlow, hhigh, Nat.div_add_mod'] at hread
    exact ⟨v, hread, by rwa [Nat.add_sub_cancel' (by omega)] at hfull'⟩

/-- Settles O42: one read, or 24 bits and the rest. -/
theorem moreThan24 : Obligations.MoreThan24 := by
  intro s c n b hfilled hdir hn hb hreads
  obtain ⟨v, hread, hfull⟩ := Cursor.readMoreThan24_ok hfilled hn hb hreads
  rw [hdir] at hread
  have hle : 2 ^ n ≤ 2 ^ 26 := Nat.pow_le_pow_right (by omega) hn
  refine ⟨v, hfull, ?_⟩
  rw [exec_moreThan24, settle_codeAt (fun v : Word => setResult true v.toNat) rfl hreads hread, settle_setResult,
    BitVec.toNat_ofNat, Nat.mod_eq_of_lt (by omega)]

/-! ### A scaled offset (R98, R276) -/

/-- R276: the value of a scaled offset. -/
theorem scaledOffset_eq {k x : Nat} (l : BitVec 3) (hx : x < 2 ^ k) :
    params.scaledOffset k l x = 8 - (((8 + l.toNat) * 2 ^ k + x : Nat) : Int) := by
  rw [params_scaledOffset, ← Nat.shiftLeft_add_eq_or_of_lt hx, Nat.shiftLeft_eq]

theorem scaledOffsetOp_ok {s : State} {c : CSel} {k x : Nat} {l : BitVec 3} {v : Cursor} (hk : k ≤ 26) (hx : x < 2 ^ k)
    (hc : selOf s.loc.idx = c) (hread : (s.cursor c).readMoreThan24 (selDir c) s.source k = .ok (BitVec.ofNat 32 x, v)) :
    scaledOffsetOp k l params s = .ok ()
      { s.setCursor c v with
        lt := { s.lt with offs := s.lt.offs ++ [BitVec.ofInt 32 (8 - (((8 + l.toNat) * 2 ^ k + x : Nat) : Int))] },
        loc := { s.loc with idx := s.loc.idx + 1 } } := by
  have hle : 2 ^ k ≤ 2 ^ 26 := Nat.pow_le_pow_right (by omega) hk
  have hx32 : (BitVec.ofNat 32 x).toNat = x := by rw [BitVec.toNat_ofNat, Nat.mod_eq_of_lt (by omega)]
  have hcode : onCursor c (fun src v => v.readMoreThan24 (selDir c) src k) s = .ok (BitVec.ofNat 32 x) (s.setCursor c v) :=
    onCursor_ok hread
  simp only [scaledOffsetOp, pushOffset, Eng.bind_run, decide_eq_true hk, require_true, getState_run, hc, hcode, hx32,
    scaledOffset_eq l hx, update_run, updateLoc_run, State.setCursor_lt, State.setLt_loc, State.setCursor_loc]
  rfl

/-- Settles O45: the bits read, and an `i32` that does not wrap. -/
theorem lzScaledOffsets : Obligations.LzScaledOffsets := by
  intro s c k l x hc hfilled hdir hk hx hreads
  obtain ⟨v, hread, hfull⟩ := Cursor.readMoreThan24_ok hfilled hk hx hreads
  rw [hdir] at hread
  refine ⟨v, _, hfull, settle_ok (scaledOffsetOp_ok (l := l) hk hx hc.symm hread), ?_⟩
  have hl := l.isLt
  have hle : 2 ^ k.toNat ≤ 2 ^ 26 := Nat.pow_le_pow_right (by omega) hk
  have hmul : (8 + l.toNat) * 2 ^ k.toNat ≤ 15 * 2 ^ 26 := Nat.mul_le_mul (by omega) hle
  rw [BitVec.toInt_ofInt]
  exact Int.bmod_eq_of_le (by omega) (by omega)

end Machine
end Sys2Proof
end

section
/-! The code-length readers, one element at a time: the selector (R191), the short sparse streams (R200, R201), the gamma path's header,
zero run and code lengths (R194, R195, R197, R198). -/

namespace Sys2Proof.Machine

/-! ### Fields read from cursor A -/

theorem Cursor.drop_drop (c : Cursor) (m n : Nat) : (c.drop m).drop n = c.drop (m + n) := by
  simp only [Cursor.drop, BitVec.shiftLeft_add, BitVec.ofNat_add, BitVec.add_assoc]

/-- R23: how many bits a sound cursor holds. -/
theorem Cursor.le_validBits {c : Cursor} {n : Nat} (h : c.sound) (hfill : c.fill + n ≤ 24) : n ≤ c.validBits := by
  rw [Cursor.sound_validBits h]
  omega

theorem Cursor.le_room {c : Cursor} {n : Nat} (h1 : 1 ≤ n) (hn : n ≤ c.validBits) : (n : Int) ≤ c.room := by
  unfold Cursor.validBits at hn
  omega

/-- The window's top bits, as a word, are the field that stands there. -/
theorem Cursor.window_field {src : Source} {c : Cursor} (h : c.sound) {n x : Nat} {rest : Bits} (hn : n ≤ c.validBits)
    (hx : x < 2 ^ n) (hr : c.reads src (bitsOfNat n x ++ rest)) : c.window >>> (32 - n) = BitVec.ofNat 32 x := by
  have htop := Cursor.window_top h hn hx hr
  have hle : x ≤ c.window.toNat := htop ▸ Nat.div_le_self ..
  have hwindow := c.window.isLt
  apply BitVec.eq_of_toNat_eq
  rw [BitVec.toNat_ushiftRight, Nat.shiftRight_eq_div_pow, htop, BitVec.toNat_ofNat, Nat.mod_eq_of_lt (by omega)]

/-- What stands after a field. -/
theorem Cursor.reads_drop {src : Source} {c : Cursor} (h : c.sound) {n x : Nat} {rest : Bits} (hn : n ≤ c.validBits)
    (hr : c.reads src (bitsOfNat n x ++ rest)) : (c.drop n).reads src rest :=
  Cursor.reads_advanced hr (by simpa using Cursor.advanced_drop h hn)

theorem Cursor.reads_drop_bitsOf {src : Source} {c : Cursor} (h : c.sound) {n : Nat} {x : BitVec n} {rest : Bits}
    (hn : n ≤ c.validBits) (hr : c.reads src (bitsOf x ++ rest)) : (c.drop n).reads src rest :=
  Cursor.reads_drop (x := x.toNat) h hn hr

/-- R125: a field of valid bits at cursor A is read. -/
theorem readBitsOf_a {s : State} {n x : Nat} {rest : Bits} (h : s.a.sound) (h1 : 1 ≤ n) (h24 : n ≤ 24) (hn : n ≤ s.a.validBits)
    (hx : x < 2 ^ n) (hr : s.a.reads s.source (bitsOfNat n x ++ rest)) :
    readBitsOf .a n params s = .ok (BitVec.ofNat 32 x) (s.setA (s.a.drop n)) := by
  have hroom : (n : Int) ≤ (s.cursor .a).room := by rw [State.cursor_a]; exact Cursor.le_room h1 hn
  rw [readBitsOf_ok h1 h24 hroom, State.cursor_a, Cursor.window_field h hn hx hr, State.setCursor_a]

/-- A field of its own width at cursor A. -/
theorem readBitsOf_a_bitsOf {s : State} {n : Nat} {x : BitVec n} {rest : Bits} (h : s.a.sound) (h1 : 1 ≤ n) (h24 : n ≤ 24)
    (hn : n ≤ s.a.validBits) (hr : s.a.reads s.source (bitsOf x ++ rest)) :
    readBitsOf .a n params s = .ok (BitVec.ofNat 32 x.toNat) (s.setA (s.a.drop n)) :=
  readBitsOf_a (x := x.toNat) h h1 h24 hn x.isLt hr

theorem toNat_ofNat_field {n : Nat} (x : BitVec n) (hn : n ≤ 32) : (BitVec.ofNat 32 x.toNat).toNat = x.toNat := by
  have hle : 2 ^ n ≤ 2 ^ 32 := Nat.pow_le_pow_right (by omega) hn
  rw [BitVec.toNat_ofNat, Nat.mod_eq_of_lt (Nat.lt_of_lt_of_le x.isLt hle)]

theorem setWidth_ofNat_field {n : Nat} (x : BitVec n) (hn : n ≤ 32) : (BitVec.ofNat 32 x.toNat).setWidth n = x := by
  apply BitVec.eq_of_toNat_eq
  rw [BitVec.toNat_setWidth, toNat_ofNat_field x hn, Nat.mod_eq_of_lt x.isLt]

/-- R80: an element that stands at cursor A. -/
theorem atCursor_a {i : Instr} {bits : Bits} {s : State} (hi : encode i = some bits) (hr : s.a.reads s.source bits) :
    atCursor .a i params s = .ok () s :=
  atCursor_ok hi (by rwa [State.cursor_a])

theorem settle_atCursor_a {i : Instr} {bits : Bits} {s : State} (m : Eng Unit) (hi : encode i = some bits)
    (hr : s.a.reads s.source bits) : settle (do atCursor .a i params; m) s = settle m s :=
  settle_of_run_eq (Eng.bind_ok (atCursor_a hi hr))

/-! ### The selector (R191) -/

theorem readBitNorefill_a {s : State} (h : 1 ≤ s.a.validBits) :
    onCursor .a (fun src c => c.readBitNorefill src) s = .ok (s.a.window >>> 31) (s.setA (s.a.drop 1)) := by
  refine onCursor_ok ?_
  rw [Cursor.readBitNorefill_eq, State.cursor_a, Cursor.readBits, if_pos ⟨by omega, by omega, Cursor.le_room (by omega) h⟩]

/-- R191: the selector's two bits are consumed. -/
theorem readSelector_ok {s : State} {i : Instr} {bits : Bits} (hsound : s.a.sound) (hvalid : 2 ≤ s.a.validBits)
    (hi : encode i = some bits) (hr : s.a.reads s.source bits) :
    readSelector i params s = .ok () (s.setA (s.a.drop 2)) := by
  obtain ⟨-, hleft, -⟩ := Cursor.drop_valid hsound (n := 1) (by omega)
  have hsecond : 1 ≤ (s.setA (s.a.drop 1)).a.validBits := by rw [State.setA_a]; omega
  rw [readSelector, Eng.bind_ok (atCursor_a hi hr), Eng.bind_ok (readBitNorefill_a (by omega)),
    Eng.bind_ok (readBitNorefill_a hsecond), State.setA_a, Cursor.drop_drop]
  rfl

theorem exec_entropySelGamma (s : State) :
    exec .entropySelGamma s = settle (do readSelector .entropySelGamma; goto .gammaHeader) s := rfl

theorem exec_entropySelSparse (s : State) :
    exec .entropySelSparse s = settle (do readSelector .entropySelSparse; goto .sparse) s := rfl

theorem exec_entropySelBad (s : State) : exec .entropySelBad s = settle (do readSelector .entropySelBad; raise .e29) s := rfl

/-- Settles O30: two bits are consumed, then the selector decides. -/
theorem entropySelectors : Obligations.EntropySelectors := by
  intro s hsound hfill
  have hvalid : 2 ≤ s.a.validBits := Cursor.le_validBits hsound (by omega)
  refine ⟨fun hr => ?_, fun hr => ?_, fun hr => ?_⟩
  · rw [exec_entropySelGamma, settle_of_run_eq (Eng.bind_ok (readSelector_ok hsound hvalid rfl hr))]
    rfl
  · rw [exec_entropySelSparse, settle_of_run_eq (Eng.bind_ok (readSelector_ok hsound hvalid rfl hr))]
    rfl
  · rw [exec_entropySelBad]
    exact settle_then_raise (readSelector_ok hsound hvalid rfl hr) (by decide)

/-! ### The sparse path's counts 0 and 1, and a width above 4 (R200, R201, R202) -/

theorem exec_sparseZero (s : State) : exec .sparseZero s = settle (do atCursor .a .sparseZero params; sparsePath) s := rfl

theorem exec_sparseOne (b : Byte) (s : State) :
    exec (.sparseOne b) s = settle (do atCursor .a (.sparseOne b) params; sparsePath) s := rfl

theorem exec_sparseMany (c : Byte) (w : BitVec 3) (pairs : List (Byte × BitVec 4)) (s : State) :
    exec (.sparseMany c w pairs) s = settle (do atCursor .a (.sparseMany c w pairs) params; sparsePath) s := rfl

section SparsePath

variable {s t u : State} {count : Word}

theorem sparsePath_zero (hcount : readBitsOf .a 8 params s = .ok 0 t) : sparsePath params s = .error (.raise .e35) t := by
  rw [sparsePath, Eng.bind_ok hcount]
  rfl

theorem sparsePath_one {v w : Cursor} {b : Byte} (hcount : readBitsOf .a 8 params s = .ok 1 (s.setA v))
    (hsym : readBitsOf .a 8 params (s.setA v) = .ok (BitVec.ofNat 32 b.toNat) (s.setA w)) :
    sparsePath params s = .ok ()
      { s with a := w, ct := { s.ct with syms := Memory.write s.ct.syms 0 b }, loc := { s.loc with num := 1 },
               ctl := .codesDone } := by
  have hnonzero : require ((1 : Word) != 0) .e35 (s.setA v) = .ok () (s.setA v) := require_true ..
  rw [sparsePath, Eng.bind_ok hcount, Eng.bind_ok hnonzero, if_pos rfl]
  simp only [Eng.bind_run, hsym, update_run, updateLoc_run, goto_run, setWidth_ofNat_field b (show 8 ≤ 32 by decide)]
  rfl

/-- R202: what comes after a count of 2 or more and the width. -/
theorem sparsePath_many {w : Word} (hcount : readBitsOf .a 8 params s = .ok count t) (h0 : count ≠ 0) (h1 : count ≠ 1)
    (hwidth : readBitsOf .a 3 params t = .ok w u) :
    sparsePath params s =
      (do
        require (decide (w.toNat ≤ 4)) .e36
        sparseLoop w.toNat count.toNat
        updateLoc fun l => { l with num := count.toNat }
        goto .codesDone : Eng Unit) u := by
  have hnonzero : require (count != 0) .e35 t = .ok () t := by rw [bne_iff_ne.2 h0, require_true]
  rw [sparsePath, Eng.bind_ok hcount, Eng.bind_ok hnonzero, if_neg h1]
  exact Eng.bind_ok hwidth

end SparsePath

/-- R200: the count read from a sound cursor that shows it. -/
theorem readCount {s : State} {c : Byte} {rest : Bits} (hsound : s.a.sound) (hfill : s.a.fill ≤ 16)
    (hr : s.a.reads s.source (bitsOf c ++ rest)) :
    readBitsOf .a 8 params s = .ok (BitVec.ofNat 32 c.toNat) (s.setA (s.a.drop 8)) ∧ (s.a.drop 8).sound ∧
      (s.a.drop 8).fill = s.a.fill + 8 ∧ (s.a.drop 8).reads s.source rest := by
  have hvalid : 8 ≤ s.a.validBits := Cursor.le_validBits hsound (by omega)
  exact ⟨readBitsOf_a_bitsOf hsound (by omega) (by omega) hvalid hr, Cursor.sound_drop hsound hvalid,
    (Cursor.drop_valid hsound hvalid).1, Cursor.reads_drop_bitsOf hsound hvalid hr⟩

/-- R200: a count of 2 or more as the word read. -/
theorem count_ne {c : Byte} (hc : 2 ≤ c.toNat) : BitVec.ofNat 32 c.toNat ≠ 0 ∧ BitVec.ofNat 32 c.toNat ≠ 1 := by
  have hcount := toNat_ofNat_field c (by omega)
  refine ⟨fun h => ?_, fun h => ?_⟩
  · have hzero : c.toNat = 0 := hcount.symm.trans (congrArg BitVec.toNat h)
    omega
  · have hone : c.toNat = 1 := hcount.symm.trans (congrArg BitVec.toNat h)
    omega

theorem encode_sparseMany (c : Byte) (w : BitVec 3) (pairs : List (Byte × BitVec 4)) :
    encode (.sparseMany c w pairs) = some (bitsOf c ++ bitsOf w ++ encodePairs w.toNat pairs) := rfl

/-- Settles O32: the count read decides. -/
theorem sparseShort : Obligations.SparseShort := by
  refine ⟨fun s hsound => ⟨fun hfill hr => ?zero, fun b hfill hr => ?one⟩, fun s c w hsound hfill hc hw hr => ?wide⟩
  case zero =>
    obtain ⟨hcount, -⟩ := readCount (rest := []) hsound hfill (by rwa [List.append_nil])
    rw [exec_sparseZero, settle_atCursor_a _ rfl hr]
    exact faultTaken_of_raise rfl (sparsePath_zero hcount) (by decide)
  case one =>
    obtain ⟨hcount, hsound', hfill', hr'⟩ := readCount hsound (by omega) hr
    have hsym := readBitsOf_a_bitsOf (s := s.setA (s.a.drop 8)) (x := b) (rest := []) hsound' (by omega) (by omega)
      (Cursor.le_validBits (c := s.a.drop 8) hsound' (by omega)) (by rw [List.append_nil]; exact hr')
    rw [exec_sparseOne, settle_atCursor_a _ rfl hr]
    rw [State.setA_a, Cursor.drop_drop] at hsym
    exact ⟨_, settle_ok (sparsePath_one hcount hsym), rfl, stored_write s.ct.syms 0 b⟩
  case wide =>
    obtain ⟨hcount, hsound', hfill', hr'⟩ := readCount hsound (by omega) hr
    have hwidth := readBitsOf_a_bitsOf (s := s.setA (s.a.drop 8)) (x := w) (rest := []) hsound' (by omega) (by omega)
      (Cursor.le_validBits (c := s.a.drop 8) hsound' (by omega)) (by rw [List.append_nil]; exact hr')
    have hrun := sparsePath_many hcount (count_ne hc).1 (count_ne hc).2 hwidth
    rw [toNat_ofNat_field w (by omega), decide_eq_false (Nat.not_le.2 hw)] at hrun
    rw [exec_sparseMany, settle_atCursor_a _ (by rw [encode_sparseMany, encodePairs, List.append_nil]) hr]
    exact faultTaken_of_raise rfl (hrun.trans (Eng.bind_error (require_false ..))) (by decide)

/-! ### The gamma path's header (R194) -/

/-- R127: a bit read after a forward refill. -/
theorem readBit_a {s : State} {k : Bool} {rest : Bits} (h : s.a.sound) (hdir : s.a.dir = .fwd)
    (hr : s.a.reads s.source (k :: rest)) :
    ∃ v, s.a.Advanced s.source 1 v ∧ v.fill ≤ 1 ∧ s.a.pos ≤ v.pos ∧
      onCursor .a (fun src c => c.readBit src) s = .ok (BitVec.ofNat 32 k.toNat) (s.setA v) := by
  obtain ⟨hrefill, hfull⟩ := Cursor.refillDir_spec (src := s.source) h
  obtain ⟨-, -, hpos, -⟩ := Cursor.fillLoop_spec (src := s.source) 3 h (by have := h.2.1; omega)
  rw [hdir] at hrefill hfull hpos
  generalize s.a.fillLoop .fwd s.source 3 = w at *
  have h24 := hfull.validBits
  obtain ⟨hadv, hfill⟩ := hfull
  have hfield : w.window >>> (32 - 1) = BitVec.ofNat 32 k.toNat := by
    refine Cursor.window_field (src := s.source) hadv.1 (by omega) (by cases k <;> decide) (rest := rest) ?_
    have hbit : bitsOfNat 1 k.toNat = [k] := by cases k <;> rfl
    rw [hbit]
    exact hadv.reads hr
  have hread : s.a.readBit s.source = .ok (BitVec.ofNat 32 k.toNat, w.drop 1) := by
    rw [Cursor.readBit_eq, hrefill, ← hfield]
    exact if_pos ⟨by omega, by omega, Cursor.le_room (by omega) (by omega)⟩
  refine ⟨w.drop 1, ?_, ?_, hpos rfl, onCursor_ok hread⟩
  · simpa using hadv.trans (Cursor.advanced_drop hadv.1 (n := 1) (by omega)) (by simp)
  · rw [Cursor.drop_fill (by omega)]
    omega

theorem exec_gammaHeader (f : BitVec 2) (k : Bool) (s : State) :
    exec (.gammaHeader f k) s = settle (do atCursor .a (.gammaHeader f k) params; gammaStart) s := rfl

/-- R194: the two fields read one after the other. -/
theorem gammaStart_ok {s t : State} {f : Word} {v : Cursor} {k : Bool} (hforced : readBitsOf .a 2 params s = .ok f t)
    (hskip : onCursor .a (fun src c => c.readBit src)
        (t.setTmp { avgBitsX4 := 32, sym := 0, numSymbols := 0, forcedBits := f.setWidth 2 }) =
      .ok (BitVec.ofNat 32 k.toNat)
        ((t.setTmp { avgBitsX4 := 32, sym := 0, numSymbols := 0, forcedBits := f.setWidth 2 }).setA v)) :
    gammaStart params s = .ok ()
      { t with a := v, tmp := { avgBitsX4 := 32, sym := 0, numSymbols := 0, forcedBits := f.setWidth 2 },
               ctl := if k then .gammaRun else .gammaZero } := by
  rw [gammaStart, params_forcedBitsWidth, Eng.bind_ok hforced, Eng.bind_ok (update_run ..)]
  refine (Eng.bind_ok hskip).trans ?_
  cases k <;> rfl

/-- Settles O34: the field, then a bit after a refill. -/
theorem gammaHeader : Obligations.GammaHeader := by
  intro s f k hsound hfill hdir hr
  have hvalid : 2 ≤ s.a.validBits := Cursor.le_validBits hsound (by omega)
  have hforced := readBitsOf_a_bitsOf (x := f) hsound (by omega) (by omega) hvalid hr
  have hadv := Cursor.advanced_drop (src := s.source) hsound hvalid
  obtain ⟨v, hadv', hfill', hpos, hskip⟩ := readBit_a (rest := [])
    (s := (s.setA (s.a.drop 2)).setTmp
      { avgBitsX4 := 32, sym := 0, numSymbols := 0, forcedBits := (BitVec.ofNat 32 f.toNat).setWidth 2 })
    hadv.1 hdir (Cursor.reads_drop_bitsOf hsound hvalid hr)
  rw [exec_gammaHeader, settle_atCursor_a _ rfl hr]
  refine ⟨_, settle_ok (gammaStart_ok hforced hskip), ?_, ?_, hfill'⟩
  · rw [setWidth_ofNat_field f (by omega)]
    rfl
  · exact hadv.trans hadv' (by simp)

/-! ### The zero run (R195) -/

theorem exec_gammaZeroRun (n b : Nat) (s : State) :
    exec (.gammaZeroRun n b) s = settle (do atCursor .a (.gammaZeroRun n b) params; zeroRun) s := rfl

theorem zeroRun_ok {s : State} {c : Cursor} {z : Nat} (hguard : s.a.window.toNat / 2 ^ 24 ≠ 0)
    (hread : s.a.readGamma = .ok (z, c)) :
    zeroRun params s = .ok ()
      { s with a := c, tmp := { s.tmp with sym := s.tmp.sym + (z + 1) },
               ctl := gammaCtl (if 256 ≤ s.tmp.sym + (z + 1) then .finish else .runCount) } := by
  have hcode : onCursor .a (fun _ c => c.readGamma) s = .ok z (s.setA c) := onCursor_ok hread
  rw [zeroRun, Eng.bind_ok (gammaGuard_ok hguard), Eng.bind_ok hcode]
  simp only [Eng.bind_run, params_zeroRunLength, update_run, getState_run, params_gammaAfterZeroRun, State.setA_tmp,
    State.setTmp_tmp, goto_run]
  rfl

/-- Settles O35: the guard lets a code of at most 7 zeros through. -/
theorem gammaZeroRun : Obligations.GammaZeroRun := by
  intro s n b hsound hfill hwf hr
  have hvalid : 23 ≤ s.a.validBits := Cursor.le_validBits hsound (by omega)
  refine ⟨fun hn => ?_, fun hn => ?_⟩
  · intro sym
    have hread := Cursor.readGamma_ok hsound (by omega) (by omega) (wfCode_bound hwf (by omega)) hr
    rw [exec_gammaZeroRun, settle_atCursor_a _ rfl hr]
    rw [settle_ok (zeroRun_ok (Cursor.topByte_ne_zero hsound hn (by omega) hr) hread), apply_ite gammaCtl]
    rfl
  · have hzero := Cursor.topByte_eq_zero hsound hn (by omega) hr
    rw [Faults, exec_gammaZeroRun, settle_atCursor_a _ rfl hr]
    exact faultTaken_of_raise rfl (Eng.bind_error (gammaGuard_raise hzero)) (by decide)

end Sys2Proof.Machine
end

section
/-! The code-length readers, what they insert (R193): a code length of the gamma path (R197, R198), the sparse path with several symbols
(R202), and the Golomb-Rice selector with a reader that may be supplied (R204 to R206). -/

namespace Sys2Proof.Machine

/-! ### A code length of the gamma path (R197, R198) -/

/-- R8: the zigzag of a residual. -/
theorem zz_eq (v : Nat) : zz v = if v % 2 = 0 then ((v / 2 : Nat) : Int) else -((v + 1) / 2 : Nat) := by
  rw [zz]
  split
  · rfl
  · omega

theorem gammaCtl_afterLength (left sym : Nat) :
    gammaCtl (params.gammaAfterLength (left - 1) sym) =
      if 1 < left then .gammaResidual else if sym = 256 then .gammaFinish else .gammaZero := by
  rw [params_gammaAfterLength, apply_ite gammaCtl, apply_ite gammaCtl]
  refine ite_congr (propext ?_) (fun _ => rfl) (fun _ => rfl)
  omega

/-- R197, R198: what follows the residual of symbol `sym`, its length known. -/
def residualLength (sym : Nat) (len : Int) : Eng Unit := do
  require (decide (1 ≤ len) && decide (len ≤ 11)) .e33
  update fun u => u.setTmp { u.tmp with avgBitsX4 := nextAverage u.tmp.avgBitsX4 len }
  refillCursor .a .fwd
  insertSymbol (BitVec.ofNat 8 sym) len.toNat
  update fun u => u.setTmp { u.tmp with sym := u.tmp.sym + 1 }
  updateLoc fun l => { l with runLeft := l.runLeft - 1 }
  let u ← getState
  goto (gammaCtl (params.gammaAfterLength u.loc.runLeft u.tmp.sym))

theorem residualLength_e33 {len : Int} (h : len < 1 ∨ 11 < len) (sym : Nat) (s : State) :
    residualLength sym len s = .error (.raise .e33) s := by
  have hcheck : (decide (1 ≤ len) && decide (len ≤ 11)) = false := by
    rcases h with h | h
    · rw [decide_eq_false (by omega), Bool.false_and]
    · rw [decide_eq_false (p := len ≤ 11) (by omega), Bool.and_false]
  rw [residualLength, hcheck, Eng.bind_error (require_false ..)]

section Residual

variable {s : State} {v : Cursor} {q : Nat} {r : Word} {len : Int}

theorem residual_e32 (h : s.a.window.toNat < 2 ^ (31 - 20 / 2 ^ s.tmp.forcedBits.toNat)) :
    residual params s = .error (.raise .e32) s := by
  have hrequire : require (decide (params.gammaThreshold s.tmp.forcedBits.toNat ≤ s.a.window.toNat)) .e32 s =
      .error (.raise .e32) s := by rw [params_gammaThreshold, decide_eq_false (Nat.not_le.2 h), require_false]
  rw [residual, Eng.bind_ok (getState_run s), Eng.bind_error hrequire]

/-- R197: the residual read, its length is checked next. -/
theorem residual_read (hthreshold : 2 ^ (31 - 20 / 2 ^ s.tmp.forcedBits.toNat) ≤ s.a.window.toNat)
    (hlz : clz32 s.a.window = q)
    (hread : readBitsOf .a (q + s.tmp.forcedBits.toNat + 1) params s = .ok r (s.setA v))
    (hlen : zz (r.toNat - 2 ^ s.tmp.forcedBits.toNat + q * 2 ^ s.tmp.forcedBits.toNat) + (s.tmp.avgBitsX4 + 2) / 4 = len) :
    residual params s = residualLength s.tmp.sym len (s.setA v) := by
  subst hlen hlz
  have hrequire : require (decide (params.gammaThreshold s.tmp.forcedBits.toNat ≤ s.a.window.toNat)) .e32 s = .ok () s := by
    rw [params_gammaThreshold, decide_eq_true hthreshold, require_true]
  rw [residual, Eng.bind_ok (getState_run s), Eng.bind_ok hrequire]
  exact Eng.bind_ok hread

end Residual

/-- R197, R198, R193: the residual's value, its bits, and what the window says of its zeros. -/
theorem residual_at {s : State} {q b : Nat} (h : s.a.filled) (hb : b < 2 ^ s.tmp.forcedBits.toNat)
    (hq : q ≤ 20 / 2 ^ s.tmp.forcedBits.toNat) (hr : s.a.reads s.source (zerosOneBits q s.tmp.forcedBits.toNat b)) :
    2 ^ (31 - 20 / 2 ^ s.tmp.forcedBits.toNat) ≤ s.a.window.toNat ∧ clz32 s.a.window = q ∧
      q + s.tmp.forcedBits.toNat + 1 ≤ 24 ∧
      readBitsOf .a (q + s.tmp.forcedBits.toNat + 1) params s =
        .ok (BitVec.ofNat 32 (2 ^ s.tmp.forcedBits.toNat + b)) (s.setA (s.a.drop (q + s.tmp.forcedBits.toNat + 1))) := by
  have h24 := Cursor.filled_validBits h
  have hf := s.tmp.forcedBits.isLt
  generalize s.tmp.forcedBits.toNat = f at *
  have hwidth : q + f + 1 ≤ 24 := by
    have hf' : f = 0 ∨ f = 1 ∨ f = 2 ∨ f = 3 := by omega
    rcases hf' with rfl | rfl | rfl | rfl <;> omega
  have hq31 : q < 32 := by omega
  refine ⟨?_, ?_, hwidth, ?_⟩
  · exact Nat.le_trans (Nat.pow_le_pow_right (by omega) (by omega)) (Cursor.window_ge_of_zerosOne h.1 hq31 (by omega) hr)
  · rw [zerosOneBits, if_pos hq31] at hr
    exact Cursor.clz_window h.1 (by omega) hr
  · rw [zerosOneBits_eq_bitsOfNat hq31 hb, ← Nat.add_assoc, ← List.append_nil (bitsOfNat _ _)] at hr
    refine readBitsOf_a h.1 (by omega) hwidth (by omega) ?_ hr
    calc 2 ^ f + b < 2 ^ (f + 1) := by rw [Nat.pow_succ]; omega
      _ ≤ 2 ^ (q + f + 1) := Nat.pow_le_pow_right (by omega) (by omega)

theorem exec_gammaResidual (q b : Nat) (s : State) :
    exec (.gammaResidual s.tmp.forcedBits q b) s =
      settle (do atCursor .a (.gammaResidual s.tmp.forcedBits q b) params; residual) s := if_pos rfl

/-- R198, R193: the length is in range and its slot in the table. -/
theorem residualLength_ok {s : State} {len : Int} (hsound : s.a.sound) (hdir : s.a.dir = .fwd) (h1 : 1 ≤ len) (h11 : len ≤ 11)
    (hslot : (s.ct.codePrefix[len.toNat]?.getD 0).toNat < 1280) :
    ∃ w, s.a.AdvancedFull s.source 0 w ∧ s.a.pos ≤ w.pos ∧
      residualLength s.tmp.sym len s =
      .ok () { s with
        a := w, tmp := { s.tmp with avgBitsX4 := len + (3 * s.tmp.avgBitsX4 + 2) / 4, sym := s.tmp.sym + 1 },
        ct := s.ct.insert (BitVec.ofNat 8 s.tmp.sym) len.toNat, loc := { s.loc with runLeft := s.loc.runLeft - 1 },
        ctl := gammaCtl (params.gammaAfterLength (s.loc.runLeft - 1) (s.tmp.sym + 1)) } := by
  obtain ⟨w, hrefill, hfull, hpos⟩ := refillForward_spec
    (s := s.setTmp { s.tmp with avgBitsX4 := nextAverage s.tmp.avgBitsX4 len }) hsound hdir
  have hinsert := insertSymbol_ok (sym := BitVec.ofNat 8 s.tmp.sym) (len := len.toNat)
    (s := (s.setTmp { s.tmp with avgBitsX4 := nextAverage s.tmp.avgBitsX4 len }).setA w) hslot
  refine ⟨w, hfull, hpos, ?_⟩
  simp only [residualLength, Eng.bind_run, decide_eq_true h1, decide_eq_true h11, Bool.and_self, require_true, update_run, hrefill, hinsert,
    updateLoc_run, getState_run, goto_run]
  rfl

/-- Settles O37: the window shows the residual whole, or falls below the threshold. -/
theorem gammaResidual : Obligations.GammaResidual := by
  refine ⟨fun s q b hfilled hdir => ?read, fun s q b hfilled hq hwf hr => ?long⟩
  case read =>
    intro f v zigzag len hb hq hr
    have h24 := Cursor.filled_validBits hfilled
    obtain ⟨hthreshold, hlz, hwidth, hread⟩ := residual_at hfilled hb hq hr
    have hf : f ≤ 3 := by have := s.tmp.forcedBits.isLt; omega
    have hvalue : (BitVec.ofNat 32 (2 ^ f + b)).toNat - 2 ^ f + q * 2 ^ f = v := by
      have hpow : 2 ^ f ≤ 2 ^ 3 := Nat.pow_le_pow_right (by omega) hf
      rw [BitVec.toNat_ofNat, Nat.mod_eq_of_lt (by omega)]
      omega
    have hrun := residual_read (len := len) hthreshold hlz hread (by
      show zz ((BitVec.ofNat 32 (2 ^ f + b)).toNat - 2 ^ f + q * 2 ^ f) + _ = _
      rw [hvalue, zz_eq])
    have hsound := Cursor.sound_drop hfilled.1 (n := q + f + 1) (by omega)
    rw [exec_gammaResidual, settle_atCursor_a _ rfl hr]
    refine ⟨fun h1 h11 hslot => ?_, fun hout => ?_⟩
    · obtain ⟨w, hfull, hpos, hrest⟩ := residualLength_ok (s := s.setA (s.a.drop (q + f + 1))) hsound hdir h1 h11 hslot
      refine ⟨_, settle_ok (hrun.trans hrest), ?_, ?_⟩
      · rw [gammaCtl_afterLength]
        rfl
      · refine ⟨?_, hfull.2⟩
        simpa using (Cursor.advanced_drop (src := s.source) hfilled.1 (n := q + f + 1) (by omega)).trans hfull.1 (by simp)
    · exact faultTaken_of_raise rfl (hrun.trans (residualLength_e33 hout _ _)) (by decide)
  case long =>
    have h24 := Cursor.filled_validBits hfilled
    have hle : 20 / 2 ^ s.tmp.forcedBits.toNat ≤ 20 := Nat.div_le_self ..
    obtain ⟨rest, hrest⟩ := zerosOneBits_eq_append (k := 20 / 2 ^ s.tmp.forcedBits.toNat + 1) (n := q) (by omega) (by omega)
      s.tmp.forcedBits.toNat b
    have hzero := Cursor.window_top hfilled.1 (n := 20 / 2 ^ s.tmp.forcedBits.toNat + 1) (x := 0) (by omega)
      (Nat.two_pow_pos _) (hrest ▸ hr)
    rw [show 32 - (20 / 2 ^ s.tmp.forcedBits.toNat + 1) = 31 - 20 / 2 ^ s.tmp.forcedBits.toNat by omega] at hzero
    have hlow := (Nat.div_eq_zero_iff.1 hzero).resolve_left (Nat.ne_of_gt (Nat.two_pow_pos _))
    rw [Faults, exec_gammaResidual, settle_atCursor_a _ rfl hr]
    exact faultTaken_of_raise rfl (residual_e32 hlow) (by decide)

end Sys2Proof.Machine
end

section
/-! The code-length readers with many insertions: the sparse path with several symbols (R202), and the Golomb-Rice selector with a
reader that may be supplied (R204 to R206). -/

namespace Sys2Proof.Machine

/-- Moves in one direction add up. -/
theorem Cursor.Advanced.trans_fwd {src : Source} {m n : Nat} {c d e : Cursor} (h1 : c.Advanced src m d)
    (h2 : d.Advanced src n e) (hcd : c.pos ≤ d.pos) (hde : d.pos ≤ e.pos) : c.Advanced src (m + n) e :=
  h1.trans h2 (by omega)

/-! ### One symbol of the sparse path (R202) -/

/-- R126: a field of any width at cursor A, refilled. -/
theorem readBitsZero_a {s : State} {w x : Nat} {rest : Bits} (h : s.a.sound) (hw : w ≤ 24) (hn : w ≤ s.a.validBits)
    (hx : x < 2 ^ w) (hr : s.a.reads s.source (bitsOfNat w x ++ rest)) :
    onCursor .a (fun _ c => c.readBitsZero w) s = .ok (BitVec.ofNat 32 x) (s.setA (s.a.drop w)) := by
  refine onCursor_ok ?_
  rw [State.cursor_a]
  by_cases hzero : w = 0
  · subst hzero
    have hx0 : x = 0 := by simpa using hx
    rw [Cursor.readBitsZero_zero, Cursor.drop_zero, hx0]
    rfl
  · have hroom := Cursor.le_room (c := s.a) (n := w) (by omega) hn
    rw [Cursor.readBitsZero_pos hzero, Cursor.readBits, if_pos ⟨by omega, hw, hroom⟩, Cursor.window_field h hn hx hr]

theorem sparseLoop_zero (w : Nat) (s : State) : sparseLoop w 0 params s = .ok () s := rfl

/-- R202: one symbol and its length, read after a refill. -/
theorem sparseLoop_symbol {s : State} {w l : Nat} {sym : Byte} {rest : Bits} (h : s.a.sound) (hdir : s.a.dir = .fwd)
    (hw : w ≤ 4) (hl : l < 2 ^ w) (hr : s.a.reads s.source (bitsOf sym ++ (bitsOfNat w l ++ rest))) :
    ∃ v, s.a.Advanced s.source (8 + w) v ∧ s.a.pos ≤ v.pos ∧ v.reads s.source rest ∧
      ∀ n, sparseLoop w (n + 1) params s =
        (do
          require (decide (l + 1 ≤ 11)) .e37
          insertSymbol sym (l + 1)
          sparseLoop w n : Eng Unit) (s.setA v) := by
  obtain ⟨c, hrefill, hfull, hpos⟩ := refillForward_spec h hdir
  have h24 := hfull.validBits
  obtain ⟨hadv, -⟩ := hfull
  have hrc := hadv.reads hr
  have hsym := readBitsOf_a_bitsOf (s := s.setA c) (x := sym) hadv.1 (by omega) (by omega)
    (by rw [State.setA_a]; omega) hrc
  obtain ⟨-, hleft, -⟩ := Cursor.drop_valid hadv.1 (n := 8) (by omega)
  have hsound := Cursor.sound_drop hadv.1 (n := 8) (by omega)
  have hrl := Cursor.reads_drop_bitsOf hadv.1 (by omega) hrc
  have hfield := readBitsZero_a (s := s.setA (c.drop 8)) hsound (by omega) (by rw [State.setA_a]; omega) hl hrl
  have hlen : (BitVec.ofNat 32 l).toNat = l := by
    have hle : 2 ^ w ≤ 2 ^ 4 := Nat.pow_le_pow_right (by omega) hw
    rw [BitVec.toNat_ofNat, Nat.mod_eq_of_lt (by omega)]
  refine ⟨(c.drop 8).drop w, ?_, hpos, Cursor.reads_drop hsound (by omega) hrl, fun n => ?_⟩
  · rw [Cursor.drop_drop]
    simpa using hadv.trans (Cursor.advanced_drop hadv.1 (n := 8 + w) (by omega)) (by simp)
  · rw [sparseLoop, Eng.bind_ok hrefill, Eng.bind_ok hsym]
    refine (Eng.bind_ok hfield).trans ?_
    rw [params_sparseLength, hlen, setWidth_ofNat_field sym (by omega)]
    rfl

/-! ### The symbols of the sparse path -/

theorem encodePairs_append (w : Nat) (xs ys : List (Byte × BitVec 4)) :
    encodePairs w (xs ++ ys) = encodePairs w xs ++ encodePairs w ys := by
  induction xs with
  | nil => rfl
  | cons x xs ih => simp only [List.cons_append, encodePairs, ih, List.append_assoc]

theorem encodePairs_length (w : Nat) (xs : List (Byte × BitVec 4)) : (encodePairs w xs).length = (8 + w) * xs.length := by
  induction xs with
  | nil => rfl
  | cons x xs ih =>
    rw [encodePairs, List.length_append, List.length_append, bitsOf_length, bitsOfNat_length, ih, List.length_cons, Nat.mul_succ]
    omega

/-- R202, R193: pairs with legal lengths are inserted in order, whatever comes after them. -/
theorem sparseLoop_pairs {w : Nat} (hw : w ≤ 4) (good : List (Byte × BitVec 4)) {s : State} {k : Nat} {rest : Bits}
    (hwithin : s.ct.Within k) (hroom : k + good.length ≤ 256) (hfits : ∀ x ∈ good, x.2.toNat < 2 ^ w)
    (hlegal : ∀ x ∈ good, x.2.toNat + 1 ≤ 11) (h : s.a.sound) (hdir : s.a.dir = .fwd)
    (hr : s.a.reads s.source (encodePairs w good ++ rest)) :
    ∃ v, s.a.Advanced s.source ((8 + w) * good.length) v ∧ s.a.pos ≤ v.pos ∧ v.reads s.source rest ∧
      ∀ n, sparseLoop w (good.length + n) params s = sparseLoop w n params ((s.setA v).setCt (s.ct.insertPairs good)) := by
  induction good generalizing s k with
  | nil => exact ⟨s.a.drop 0, Cursor.advanced_drop h (Nat.zero_le _), Int.le_refl _, by rw [Cursor.drop_zero]; exact hr,
      fun n => by rw [Cursor.drop_zero, List.length_nil, Nat.zero_add]; rfl⟩
  | cons x good ih =>
    obtain ⟨sym, l⟩ := x
    obtain ⟨hl, hfits'⟩ := List.forall_mem_cons.1 hfits
    obtain ⟨h11, hlegal'⟩ := List.forall_mem_cons.1 hlegal
    rw [List.length_cons] at hroom
    rw [encodePairs, List.append_assoc, List.append_assoc] at hr
    obtain ⟨c, hadv, hpos, hrc, hstep⟩ := sparseLoop_symbol h hdir hw hl hr
    have hslot := hwithin (l.toNat + 1) (by omega) h11
    have hinsert := insertSymbol_ok (sym := sym) (len := l.toNat + 1) (s := s.setA c) (by rw [State.setA_ct]; omega)
    obtain ⟨v, hadv', hpos', hrv, hrest⟩ := ih (s := (s.setA c).setCt (s.ct.insert sym (l.toNat + 1))) (k := k + 1)
      (hwithin.insert sym _) (by omega) hfits' hlegal' hadv.1 (hadv.2.2.2.1.trans hdir) hrc
    refine ⟨v, ?_, Int.le_trans hpos hpos', hrv, fun n => ?_⟩
    · rw [List.length_cons, Nat.mul_succ, Nat.add_comm]
      exact hadv.trans_fwd hadv' hpos hpos'
    · rw [List.length_cons, Nat.add_right_comm, hstep, decide_eq_true h11, Eng.bind_ok (require_true ..), Eng.bind_ok hinsert]
      exact hrest n

/-- R202: the first length above 11. -/
theorem sparseLoop_e37 {s : State} {w l : Nat} {sym : Byte} {rest : Bits} (h : s.a.sound) (hdir : s.a.dir = .fwd)
    (hw : w ≤ 4) (hl : l < 2 ^ w) (hlong : 11 < l + 1) (hr : s.a.reads s.source (bitsOf sym ++ (bitsOfNat w l ++ rest))) :
    ∃ v, s.a.Advanced s.source (8 + w) v ∧ s.a.pos ≤ v.pos ∧
      ∀ n, sparseLoop w (n + 1) params s = .error (.raise .e37) (s.setA v) := by
  obtain ⟨v, hadv, hpos, -, hstep⟩ := sparseLoop_symbol h hdir hw hl hr
  refine ⟨v, hadv, hpos, fun n => ?_⟩
  rw [hstep, decide_eq_false (by omega), Eng.bind_error (require_false ..)]

/-- R202: the rest of the sparse path, after its count and its width. -/
def sparseRest (w count : Nat) : Eng Unit := do
  sparseLoop w count
  updateLoc fun l => { l with num := count }
  goto .codesDone

/-- R200, R202: the count and the width read. -/
theorem sparsePath_header {s : State} {c : Byte} {w : BitVec 3} {rest : Bits} (hsound : s.a.sound) (hfill : s.a.fill ≤ 13)
    (hc : 2 ≤ c.toNat) (hw : w.toNat ≤ 4) (hr : s.a.reads s.source (bitsOf c ++ (bitsOf w ++ rest))) :
    ∃ v, s.a.Advanced s.source 11 v ∧ s.a.pos ≤ v.pos ∧ v.reads s.source rest ∧
      sparsePath params s = sparseRest w.toNat c.toNat (s.setA v) := by
  obtain ⟨hcount, hsound8, hfill8, hr8⟩ := readCount hsound (by omega) hr
  have hvalid8 : 8 ≤ s.a.validBits := Cursor.le_validBits hsound (by omega)
  have hvalid3 : 3 ≤ (s.a.drop 8).validBits := Cursor.le_validBits (c := s.a.drop 8) hsound8 (by omega)
  have hwidth : readBitsOf .a 3 params (s.setA (s.a.drop 8)) =
      .ok (BitVec.ofNat 32 w.toNat) (s.setA ((s.a.drop 8).drop 3)) :=
    readBitsOf_a_bitsOf (s := s.setA (s.a.drop 8)) (x := w) hsound8 (by omega) (by omega) hvalid3 hr8
  have hrun := sparsePath_many hcount (count_ne hc).1 (count_ne hc).2 hwidth
  rw [toNat_ofNat_field w (by omega), toNat_ofNat_field c (by omega), decide_eq_true hw, Eng.bind_ok (require_true ..)] at hrun
  exact ⟨_, (Cursor.advanced_drop hsound hvalid8).trans_fwd (Cursor.advanced_drop hsound8 hvalid3) (Int.le_refl _)
    (Int.le_refl _), Int.le_refl _, Cursor.reads_drop_bitsOf hsound8 hvalid3 hr8, hrun⟩

/-- R202: every length legal. -/
theorem sparseRest_ok {s : State} {w : Nat} {pairs : List (Byte × BitVec 4)} (hw : w ≤ 4) (hlen : pairs.length ≤ 256)
    (hfirst : s.ct.codePrefix = firstSlots) (hfits : ∀ x ∈ pairs, x.2.toNat < 2 ^ w)
    (hlegal : ∀ x ∈ pairs, x.2.toNat + 1 ≤ 11) (hsound : s.a.sound) (hdir : s.a.dir = .fwd)
    (hr : s.a.reads s.source (encodePairs w pairs)) :
    ∃ v, s.a.Advanced s.source ((8 + w) * pairs.length) v ∧ s.a.pos ≤ v.pos ∧ sparseRest w pairs.length s = .ok ()
      { s with a := v, ct := s.ct.insertPairs pairs, loc := { s.loc with num := pairs.length }, ctl := .codesDone } := by
  obtain ⟨v, hadv, hpos, -, hloop⟩ := sparseLoop_pairs (rest := []) hw pairs (CodeTable.within_first hfirst)
    (by omega) hfits hlegal hsound hdir (by rwa [List.append_nil])
  have hdone : sparseLoop w pairs.length params s = .ok () ((s.setA v).setCt (s.ct.insertPairs pairs)) :=
    (hloop 0).trans (sparseLoop_zero ..)
  refine ⟨v, hadv, hpos, ?_⟩
  rw [sparseRest, Eng.bind_ok hdone]
  rfl

/-- R202, E37: a first length above 11. -/
theorem sparseRest_e37 {s : State} {w : Nat} {good rest : List (Byte × BitVec 4)} {sym : Byte} {l : BitVec 4} (hw : w ≤ 4)
    (hlen : good.length ≤ 256) (hfirst : s.ct.codePrefix = firstSlots) (hfits : ∀ x ∈ good, x.2.toNat < 2 ^ w)
    (hlegal : ∀ x ∈ good, x.2.toNat + 1 ≤ 11) (hl : l.toNat < 2 ^ w) (hlong : 11 < l.toNat + 1) (hsound : s.a.sound)
    (hdir : s.a.dir = .fwd) (hr : s.a.reads s.source (encodePairs w (good ++ (sym, l) :: rest))) :
    ∃ v, s.a.Advanced s.source ((8 + w) * (good.length + 1)) v ∧ s.a.pos ≤ v.pos ∧
      sparseRest w (good ++ (sym, l) :: rest).length s =
        .error (.raise .e37) { s with a := v, ct := s.ct.insertPairs good } := by
  rw [encodePairs_append] at hr
  obtain ⟨c, hadv, hpos, hrc, hloop⟩ := sparseLoop_pairs hw good (CodeTable.within_first hfirst) (by omega) hfits hlegal hsound
    hdir hr
  rw [encodePairs, List.append_assoc] at hrc
  obtain ⟨v, hadv', hpos', hstop⟩ := sparseLoop_e37 (s := (s.setA c).setCt (s.ct.insertPairs good)) hadv.1
    (hadv.2.2.2.1.trans hdir) hw hl hlong hrc
  refine ⟨v, hadv.trans_fwd hadv' hpos hpos', Int.le_trans hpos hpos', ?_⟩
  rw [List.length_append, List.length_cons, sparseRest, Eng.bind_error ((hloop _).trans (hstop _))]
  rfl

/-- Settles O33: by induction on the pairs whose lengths are legal. -/
theorem sparseMany : Obligations.SparseMany := by
  intro s c w pairs bits hsound hfill hdir hwf hw hbits hr hfirst
  obtain ⟨hc, hpairs⟩ := (sparseMany_wf_iff c w pairs).1 hwf
  obtain ⟨-, hlen, hfits⟩ := hpairs.resolve_right fun h => by omega
  have hcount := c.isLt
  cases hbits
  rw [exec_sparseMany, settle_atCursor_a _ (encode_sparseMany c w pairs) hr]
  rw [List.append_assoc] at hr
  obtain ⟨v, hadv, hpos, hrv, hrun⟩ := sparsePath_header hsound hfill hc hw hr
  rw [← hlen] at hrun ⊢
  refine ⟨fun hlegal => ?_, fun good rest sym l hsplit hlegal hlong => ?_⟩
  · obtain ⟨v', hadv', hpos', hrest⟩ := sparseRest_ok (s := s.setA v) hw (by omega) hfirst hfits hlegal hadv.1
      (hadv.2.2.2.1.trans hdir) hrv
    refine ⟨_, settle_ok (hrun.trans hrest), rfl, ?_⟩
    rw [List.length_append, List.length_append, bitsOf_length, bitsOf_length, encodePairs_length]
    exact hadv.trans_fwd hadv' hpos hpos'
  · subst hsplit
    have hshort : good.length ≤ 256 := by rw [List.length_append] at hlen; omega
    obtain ⟨hfitsGood, hfitsRest⟩ := List.forall_mem_append.1 hfits
    obtain ⟨v', hadv', hpos', hrest⟩ := sparseRest_e37 (s := s.setA v) hw hshort hfirst hfitsGood hlegal
      (hfitsRest (sym, l) List.mem_cons_self) hlong hadv.1 (hadv.2.2.2.1.trans hdir) hrv
    obtain ⟨t, ht, hfault⟩ := faultTaken_of_raise rfl (hrun.trans hrest) (by decide)
    exact ⟨v', t, hadv.trans_fwd hadv' hpos hpos', ht, hfault⟩

/-! ### The Golomb-Rice selector (R204 to R206) -/

/-- R205: the bits of a supplied reader; one that reads none needs no forward cursor. -/
theorem skipBits_a {s : State} {n : Nat} (h : s.a.sound) (hdir : n = 0 ∨ s.a.dir = .fwd) :
    ∃ v, s.a.Advanced s.source n v ∧ s.a.pos ≤ v.pos ∧ skipBits n params s = .ok () (s.setA v) := by
  rcases hdir with rfl | hdir
  · exact ⟨s.a.drop 0, Cursor.advanced_drop h (Nat.zero_le _), Int.le_refl _, by rw [Cursor.drop_zero]; rfl⟩
  · exact skipBits_ok n s h hdir

/-- R205: the insertions of a supplied reader; one that inserts nothing needs no fresh table. -/
theorem insertAll_a {s : State} {xs : List (Byte × Nat)} (hlegal : ∀ x ∈ xs, 1 ≤ x.2 ∧ x.2 ≤ 11) (hlen : xs.length ≤ 256)
    (hfirst : xs = [] ∨ s.ct.codePrefix = firstSlots) : insertAll xs s = .ok () (s.setCt (s.ct.insertAll xs)) := by
  rcases hfirst with rfl | hfirst
  · rfl
  · exact insertAll_ok xs s 0 (CodeTable.within_first hfirst) (by omega) hlegal

/-- R204: what a supplied reader is given (log entry 18). -/
def State.golombRiceArgs (s : State) (c : Cursor) : Config.GolombRiceArgs :=
  { cursor := c, bytes := srcValues s.src c.lo (c.hi - c.lo), table := s.ct,
    bits2Value := Config.bits2Value, bits2Length := Config.bits2Length }

/-- R205, R206: a supplied reader's answer, after its two fields. -/
def golombRiceRest (count : Word) (answer : Config.GolombRiceAnswer) : Eng Unit := do
  insertAll answer.inserts
  skipBits answer.bits
  match answer.result with
  | .fail => raise .e38
  | .misuse => raise .e54
  | .symbols num =>
    if count = 0 ∨ num = 0 then refuse .openContract
    else
      updateLoc fun l => { l with num := num }
      goto .codesDone

theorem golombRice_fields {f : Config.GolombRiceArgs → Config.GolombRiceAnswer} {s : State} {c c' : Cursor}
    {forced count : Word} (hforced : readBitsOf .a 2 params s = .ok forced (s.setA c))
    (hcount : readBitsOf .a 8 params ((s.setA c).setTmp { s.tmp with forcedBits := forced.setWidth 2 }) =
      .ok count (((s.setA c).setTmp { s.tmp with forcedBits := forced.setWidth 2 }).setA c')) :
    golombRice (some f) params s = golombRiceRest count (f (s.golombRiceArgs s.a))
      (((s.setA c).setTmp { s.tmp with forcedBits := forced.setWidth 2 }).setA c') := by
  rw [golombRice, Eng.bind_ok (getState_run s), Eng.bind_ok hforced, Eng.bind_ok (update_run ..)]
  exact Eng.bind_ok hcount

section Answer

variable {s : State} {count : Word} {answer : Config.GolombRiceAnswer} {v : Cursor}
  (hinsert : insertAll answer.inserts s = .ok () (s.setCt (s.ct.insertAll answer.inserts)))
  (hskip : skipBits answer.bits params (s.setCt (s.ct.insertAll answer.inserts)) =
    .ok () ((s.setCt (s.ct.insertAll answer.inserts)).setA v))

include hinsert hskip

theorem golombRiceRest_fail (h : answer.result = .fail) :
    golombRiceRest count answer s = .error (.raise .e38) ((s.setCt (s.ct.insertAll answer.inserts)).setA v) := by
  simp only [golombRiceRest, Eng.bind_run, hinsert, hskip, h, raise_run]

theorem golombRiceRest_misuse (h : answer.result = .misuse) :
    golombRiceRest count answer s = .error (.raise .e54) ((s.setCt (s.ct.insertAll answer.inserts)).setA v) := by
  simp only [golombRiceRest, Eng.bind_run, hinsert, hskip, h, raise_run]

theorem golombRiceRest_symbols {n : Nat} (h : answer.result = .symbols (n + 1)) (hcount : count ≠ 0) :
    golombRiceRest count answer s = .ok ()
      { s with a := v, ct := s.ct.insertAll answer.inserts, loc := { s.loc with num := n + 1 }, ctl := .codesDone } := by
  have hkept : ¬(count = 0 ∨ n + 1 = 0) := fun h0 => h0.elim hcount (Nat.succ_ne_zero n)
  simp only [golombRiceRest, Eng.bind_run, hinsert, hskip, h]
  exact (congrFun (if_neg hkept) _).trans rfl

end Answer

theorem exec_entropySelGolombRice (s : State) : exec .entropySelGolombRice s =
    settle (do readSelector .entropySelGolombRice; golombRice Config.golombRiceReader) s := rfl

/-- R204: the selector and the two fields read. -/
theorem golombRice_header {s : State} (f : Config.GolombRiceArgs → Config.GolombRiceAnswer) (hsound : s.a.sound)
    (hfill : s.a.fill ≤ 12) :
    golombRice (some f) params (s.setA (s.a.drop 2)) =
      golombRiceRest ((((s.a.drop 2).drop 2)).window >>> 24) (f (s.golombRiceArgs (s.a.drop 2)))
        { s with a := s.a.drop 12, tmp := { s.tmp with forcedBits := ((s.a.drop 2).window >>> 30).setWidth 2 } } := by
  have hvalid : 12 ≤ s.a.validBits := Cursor.le_validBits hsound (by omega)
  obtain ⟨-, hleft, -⟩ := Cursor.drop_valid hsound (n := 2) (by omega)
  obtain ⟨-, hleft', -⟩ := Cursor.drop_valid hsound (n := 2 + 2) (by omega)
  have hforced := readBitsOf_ok (c := .a) (n := 2) (s := s.setA (s.a.drop 2)) (by omega) (by omega)
    (Cursor.le_room (c := s.a.drop 2) (by omega) (by omega))
  have hcount := readBitsOf_ok (c := .a) (n := 8)
    (s := ((s.setA (s.a.drop 2)).setA ((s.a.drop 2).drop 2)).setTmp
      { s.tmp with forcedBits := ((s.a.drop 2).window >>> 30).setWidth 2 }) (by omega) (by omega)
    (Cursor.le_room (c := (s.a.drop 2).drop 2) (by omega) (by rw [Cursor.drop_drop]; omega))
  have hrun := golombRice_fields (f := f) hforced hcount
  rw [show s.a.drop 12 = ((s.a.drop 2).drop 2).drop 8 by rw [Cursor.drop_drop, Cursor.drop_drop]]
  exact hrun

/-- Settles O31: the selector and the two fields are read, then the supplied reader by its answer. -/
theorem GolombRice.golombRice : Obligations.GolombRice := by
  intro s hsound hfill hr
  have hvalid : 12 ≤ s.a.validBits := Cursor.le_validBits hsound (by omega)
  have hselector := readSelector_ok (i := .entropySelGolombRice) hsound (by omega) rfl hr
  have hexec : exec .entropySelGolombRice s = settle (Machine.golombRice Config.golombRiceReader) (s.setA (s.a.drop 2)) := by
    rw [exec_entropySelGolombRice, settle_of_run_eq (Eng.bind_ok hselector)]
  cases hreader : Config.golombRiceReader with
  | none =>
    rw [hreader] at hexec
    exact faultTaken_of_raise hexec rfl (by decide)
  | some f =>
    rw [hreader] at hexec
    dsimp only
    intro hlegal hlen hfirst hdir
    rw [settle_of_run_eq (golombRice_header f hsound hfill)] at hexec
    have hadv12 := Cursor.advanced_drop (src := s.source) hsound (n := 12) hvalid
    obtain ⟨v, hadv, hpos, hskip⟩ := skipBits_a
      (s := State.setCt { s with
        a := s.a.drop 12, tmp := { s.tmp with forcedBits := ((s.a.drop 2).window >>> 30).setWidth 2 } }
        (s.ct.insertAll (f (s.golombRiceArgs (s.a.drop 2))).inserts)) hadv12.1 hdir
    have hinsert := insertAll_a (s := { s with
        a := s.a.drop 12, tmp := { s.tmp with forcedBits := ((s.a.drop 2).window >>> 30).setWidth 2 } }) hlegal hlen hfirst
    refine ⟨v, hadv12.trans_fwd hadv (Int.le_refl _) hpos, fun hfail => ?_, fun hmisuse => ?_, fun n hsymbols hcount => ?_⟩
    · exact faultTaken_of_raise hexec (golombRiceRest_fail hinsert hskip hfail) (by decide)
    · exact faultTaken_of_raise hexec (golombRiceRest_misuse hinsert hskip hmisuse) (by decide)
    · exact hexec.trans (settle_ok (golombRiceRest_symbols hinsert hskip hsymbols hcount))

end Sys2Proof.Machine
end
